-- ==== Sys2Proof/Word.lean ====
section
/-! DEFINITION. The widths of the machine's values (00_scope R6, R7): every value of the spec is an unsigned number of a stated width. -/

namespace Sys2Proof

/-- A register of the window, and a command word (10_state R39, 30_encoding R100). -/
abbrev Word := BitVec 32

/-- One stored character code or data value: CHAR_BITS = 8 (00_scope R6). -/
abbrev Byte := BitVec 8

/-- A 5-bit data symbol: SYM_BITS = 5 (00_scope R6). -/
abbrev Sym := BitVec 5

/-- The polymod state: CHK_BITS = 30 (00_scope R6). -/
abbrev Chk := BitVec 30

end Sys2Proof
end

