-- ==== Sys2Proof/Syntax.lean ====
section
/-! DEFINITION. The thirteen commands, one constructor per row of spec/opcode_table.json (30_encoding R105). An operand is held at the width of its field (R100, R102, R103), so every term is an instruction some legal word encodes (log 8). -/

namespace Sys2Proof

/-- The two checksum variants in scope, and no others (00_scope R2). SEL chooses one (30_encoding R103), and a
verified checksum is tagged with one (10_state R48). -/
inductive Variant where
  | bech32
  | bech32m
  deriving DecidableEq, Repr

/-- A legal command (30_encoding R105, R106). -/
inductive Instr where
  /-- NOP, OP 0x00. -/
  | nop
  /-- VALIDATE, OP 0x01. -/
  | validate
  /-- MAP_DEC c, OP 0x02: ARG is a character code. -/
  | mapDec (arg : Byte)
  /-- MAP_ENC v, OP 0x03: ARG is a data value. -/
  | mapEnc (arg : Byte)
  /-- STRIP, OP 0x04. -/
  | strip
  /-- CHK_INIT, OP 0x05. -/
  | chkInit
  /-- CHK_STEP v, OP 0x06: ARG is a data value. -/
  | chkStep (arg : Byte)
  /-- CHK_HRP, OP 0x07. -/
  | chkHrp
  /-- CHK_DATA, OP 0x08. -/
  | chkData
  /-- CHK_FINAL k, OP 0x09: SEL chooses the constant. -/
  | chkFinal (sel : Variant)
  /-- CHK_VERIFY, OP 0x0A. -/
  | chkVerify
  /-- ENCODE k, OP 0x0B: SEL chooses the constant. -/
  | encode (sel : Variant)
  /-- DECODE, OP 0x0C. -/
  | decode
  deriving DecidableEq, Repr

end Sys2Proof
end

