-- ==== Sys2Proof/WellFormed.lean ====
section
/-! DEFINITION. Which command words are well formed (30_encoding R104 to R107), said twice as the spec says it: by the mask and match of each row of R106, and by four checks on the fields. Every term of `Instr` is well formed by its types, so the checks stand on command words, where ill-formed terms exist. -/

namespace Sys2Proof

/-- One row of R106: a word matches when `w &&& mask = mtch`. -/
structure OpRow where
  mnemonic : String
  mask     : Word
  mtch     : Word
  deriving DecidableEq, Repr

/-- The thirteen rows of R106. -/
def opRows : List OpRow :=
  [ ⟨"NOP",        0xFFFFFFFF#32, 0x00000000#32⟩,
    ⟨"VALIDATE",   0xFFFFFFFF#32, 0x00000001#32⟩,
    ⟨"MAP_DEC",    0xFFFF00FF#32, 0x00000002#32⟩,
    ⟨"MAP_ENC",    0xFFFF00FF#32, 0x00000003#32⟩,
    ⟨"STRIP",      0xFFFFFFFF#32, 0x00000004#32⟩,
    ⟨"CHK_INIT",   0xFFFFFFFF#32, 0x00000005#32⟩,
    ⟨"CHK_STEP",   0xFFFF00FF#32, 0x00000006#32⟩ ] ++
  [ ⟨"CHK_HRP",    0xFFFFFFFF#32, 0x00000007#32⟩,
    ⟨"CHK_DATA",   0xFFFFFFFF#32, 0x00000008#32⟩,
    ⟨"CHK_FINAL",  0xFFFEFFFF#32, 0x00000009#32⟩,
    ⟨"CHK_VERIFY", 0xFFFFFFFF#32, 0x0000000A#32⟩,
    ⟨"ENCODE",     0xFFFEFFFF#32, 0x0000000B#32⟩,
    ⟨"DECODE",     0xFFFFFFFF#32, 0x0000000C#32⟩ ]

/-- The word matches the row. -/
def OpRow.matches (r : OpRow) (w : Word) : Bool := w &&& r.mask == r.mtch

/-- R107: a command word is legal exactly when it matches one row of R106. -/
def legalWord (w : Word) : Bool := opRows.any fun r => r.matches w

/-- R104: RSV, bits [31:17], is 0. -/
def rsvClear (w : Word) : Bool := w.extractLsb' 17 15 == 0#15

/-- R105: OP is one of the defined opcodes. -/
def opDefined (w : Word) : Bool := w.extractLsb' 0 8 ≤ 0x0C#8

/-- R106: ARG is 0 unless the command uses it. -/
def argUsed (w : Word) : Bool :=
  w.extractLsb' 8 8 == 0#8 || [0x02#8, 0x03#8, 0x06#8].contains (w.extractLsb' 0 8)

/-- R106: SEL is 0 unless the command uses it. -/
def selUsed (w : Word) : Bool :=
  w.extractLsb' 16 1 == 0#1 || [0x09#8, 0x0B#8].contains (w.extractLsb' 0 8)

/-- The field form of legality (R104 to R106): all four checks hold. -/
def wellFormedWord (w : Word) : Bool := rsvClear w && opDefined w && argUsed w && selUsed w

end Sys2Proof
end

