-- ==== Sys2Proof/Decode.lean ====
section
/-! DEFINITION. The command decoder (30_encoding R108), total on every word and every list of bytes, refusing by name; and the encoder (R106, R111), written from the same table. -/

namespace Sys2Proof

/-- Why a word is illegal (30_encoding R107). The machine records none of these: each gives IllegalCommand
(60_exceptions R244). -/
inductive Illegal where
  /-- A bit of RSV is set (R104). -/
  | reservedBits
  /-- OP is 0x0D to 0xFF (R105). -/
  | undefinedOpcode
  /-- ARG is not 0 and the command does not use it (R106). -/
  | unusedArg
  /-- SEL is 1 and the command does not use it (R106). -/
  | unusedSel
  /-- Not the four bytes of one command word: there are no other lengths (R100, R109). -/
  | notOneWord
  deriving DecidableEq, Repr

/-- OP = w[7:0] (R101). -/
def opField (w : Word) : BitVec 8 := w.extractLsb' 0 8

/-- ARG = w[15:8] (R102). -/
def argField (w : Word) : Byte := w.extractLsb' 8 8

/-- SEL = w[16] (R103). -/
def selField (w : Word) : BitVec 1 := w.extractLsb' 16 1

/-- RSV = w[31:17] (R104). -/
def rsvField (w : Word) : BitVec 15 := w.extractLsb' 17 15

/-- The constant a SEL value selects (R103). -/
def selVariant (sel : BitVec 1) : Variant := if sel = 0#1 then .bech32 else .bech32m

/-- The command of a defined opcode (R105). -/
def opInstr (op : BitVec 8) (arg : Byte) (sel : BitVec 1) : Option Instr :=
  if op = 0x00#8 then some .nop
  else if op = 0x01#8 then some .validate
  else if op = 0x02#8 then some (.mapDec arg)
  else if op = 0x03#8 then some (.mapEnc arg)
  else if op = 0x04#8 then some .strip
  else if op = 0x05#8 then some .chkInit
  else if op = 0x06#8 then some (.chkStep arg)
  else if op = 0x07#8 then some .chkHrp
  else if op = 0x08#8 then some .chkData
  else if op = 0x09#8 then some (.chkFinal (selVariant sel))
  else if op = 0x0A#8 then some .chkVerify
  else if op = 0x0B#8 then some (.encode (selVariant sel))
  else if op = 0x0C#8 then some .decode
  else none

/-- R108, in its order of tests. -/
def decodeCmd (w : Word) : Except Illegal Instr :=
  if rsvField w ≠ 0#15 then .error .reservedBits
  else if opField w > 0x0C#8 then .error .undefinedOpcode
  else if argField w ≠ 0#8 ∧ opField w ∉ [0x02#8, 0x03#8, 0x06#8] then .error .unusedArg
  else if selField w ≠ 0#1 ∧ opField w ∉ [0x09#8, 0x0B#8] then .error .unusedSel
  else match opInstr (opField w) (argField w) (selField w) with
    | some i => .ok i
    | none => .error .undefinedOpcode

/-- The bytes of a window word on its lanes, the lowest byte address first (20_memory R75). -/
def laneBytes (w : Word) : List Byte :=
  [w.extractLsb' 0 8, w.extractLsb' 8 8, w.extractLsb' 16 8, w.extractLsb' 24 8]

/-- The decoder on bytes: one command is exactly one word (R109), its lowest byte first (R75). -/
def decodeBytes : List Byte → Except Illegal Instr
  | [b0, b1, b2, b3] => decodeCmd (b3 ++ b2 ++ b1 ++ b0)
  | _ => .error .notOneWord

/-- The instruction read from an instruction whose bits are `w`, numbered as spec/opcode_table.json numbers them: the
bits above `nbits` are 0, and the word is laid out on its byte lanes. -/
def decodeTableWord (nbits w : Nat) : Option Instr :=
  (decodeBytes (laneBytes (BitVec.ofNat 32 (w % 2 ^ nbits)))).toOption

/-- SEL's value for a constant (R103, R111). -/
def variantSel : Variant → BitVec 1
  | .bech32 => 0#1
  | .bech32m => 1#1

/-- R111: `match(X) | (arg << 8) | (sel << 16)`. -/
def commandWord (mtch : Word) (arg : Byte) (sel : BitVec 1) : Word :=
  mtch ||| (arg.setWidth 32 <<< 8) ||| (sel.setWidth 32 <<< 16)

/-- The command word of an instruction (R106, R111). -/
def encode : Instr → Word
  | .nop        => commandWord 0x00000000#32 0#8 0#1
  | .validate   => commandWord 0x00000001#32 0#8 0#1
  | .mapDec a   => commandWord 0x00000002#32 a 0#1
  | .mapEnc a   => commandWord 0x00000003#32 a 0#1
  | .strip      => commandWord 0x00000004#32 0#8 0#1
  | .chkInit    => commandWord 0x00000005#32 0#8 0#1
  | .chkStep a  => commandWord 0x00000006#32 a 0#1
  | .chkHrp     => commandWord 0x00000007#32 0#8 0#1
  | .chkData    => commandWord 0x00000008#32 0#8 0#1
  | .chkFinal k => commandWord 0x00000009#32 0#8 (variantSel k)
  | .chkVerify  => commandWord 0x0000000A#32 0#8 0#1
  | .encode k   => commandWord 0x0000000B#32 0#8 (variantSel k)
  | .decode     => commandWord 0x0000000C#32 0#8 0#1

end Sys2Proof
end

