-- ==== Sys2Proof/Config.lean ====
section
/-! DEFINITION. The implementation parameters of 00_scope R6: the fixed ones with the spec's values, and BASE, which the spec leaves open, as a constant without a body. LATENCY, the other open parameter, is not a number here: the schedule in `State.turns` ranges over every value of it (log 2). -/

namespace Sys2Proof.Config

/-- MIN_LEN: the shortest string DECODE and VALIDATE accept. -/
@[simp] abbrev minLen : Nat := 8

/-- MAX_LEN: the longest string DECODE and VALIDATE accept, and ENCODE produces. -/
@[simp] abbrev maxLen : Nat := 90

/-- HRP_MIN. -/
@[simp] abbrev hrpMin : Nat := 1

/-- HRP_MAX. -/
@[simp] abbrev hrpMax : Nat := 83

/-- DP_MIN: the shortest data part, the checksum counted. -/
@[simp] abbrev dpMin : Nat := 6

/-- CSUM_LEN: the checksum's length in symbols. -/
@[simp] abbrev csumLen : Nat := 6

/-- IBUF_CAP. -/
@[simp] abbrev ibufCap : Nat := 128

/-- OBUF_CAP. -/
@[simp] abbrev obufCap : Nat := 128

/-- SEP: the separator character '1'. -/
abbrev sep : Byte := 0x31#8

/-- The smallest and the largest code of a Bech32 string's character (00_scope R13, 40_validate_split R121). -/
abbrev codeMin : Byte := 0x21#8

/-- See `codeMin`. -/
abbrev codeMax : Byte := 0x7E#8

/-- ID: the hard-wired value of the ID register (10_state R40). -/
abbrev idValue : Word := 0x42333201#32

/-- The number of the 4 KiB page the platform puts the window at. OPEN in the spec (00_scope R6, U8): no body, so
no proof can see its value and every statement holds for every BASE (log 3). -/
opaque basePage : Nat

/-- BASE: 4 KiB-aligned by construction (20_memory R70). -/
def base : Nat := 4096 * basePage

end Sys2Proof.Config
end

