-- ==== Sys2Proof/Machine/State.lean ====
section
/-! DEFINITION. The machine's state as plain data (10_state R31), its one fault, and the state after reset (70_reset_and_hazards R281). -/

namespace Sys2Proof.Machine

/-- The sixteen error kinds (60_exceptions R241): 1 to 13 are the source's taxonomy in its order, 14 to 16 the
hardware's own. A command reports at most one of them. -/
inductive ErrKind where
  | tooShort
  | tooLong
  | mixedCase
  | charOutOfRange
  | missingSeparator
  | hrpTooShort
  | hrpTooLong
  | dataTooShort
  | charsetCharInvalid
  | charsetValueOutOfRange
  | hrpAndDpCombinedTooLong
  | badChecksum
  | nullInput
  | illegalCommand
  | bufferOverflow
  | lengthMismatch
  deriving DecidableEq, Repr

/-- The entries of one buffer: (entry index, byte) pairs in one canonical form (`Memory.wf`). -/
abbrev Memory := List Host.Cell

/-- One action of the outside: of the host (10_state R30) or of the reset pin (70_reset_and_hazards R280). An address
is a platform address, a size a number of bytes. -/
inductive HostAction where
  /-- MemRead(addr, size) (20_memory R80). -/
  | read (addr size : Nat)
  /-- MemWrite(addr, size, v) (20_memory R80). -/
  | write (addr size : Nat) (v : Word)
  /-- A word write of the value the host read last: COPYOUT's `WR IBUF[k], <the value just read>` (30_encoding R112). -/
  | writeBack (addr : Nat)
  /-- WAIT: read STATUS again and again until BUSY reads 0 (30_encoding R110). -/
  | wait
  /-- RST_N is low for one step (70_reset_and_hazards R280a). -/
  | resetPin
  deriving DecidableEq, Repr

/-- Whose step is next (10_state R30: host and engine). -/
inductive Turn where
  | engine
  | host (a : HostAction)
  deriving DecidableEq, Repr

/-- The whole state. STATUS.BUSY has no field: it is 1 exactly when PEND is not empty (10_state R44, R60). ID, CMD, SRST
and the reserved bits have no storage (R40 to R42, 20_memory R77). -/
structure State where
  /-- CTRL.IRQ_EN (10_state R41). -/
  irqEn   : Bool
  /-- STATUS.DONE (10_state R45). -/
  done    : Bool
  /-- STATUS.ERR (10_state R46). -/
  err     : Bool
  /-- STATUS.OVR (10_state R47). -/
  ovr     : Bool
  /-- STATUS.ERRCODE (10_state R46). -/
  errcode : BitVec 5
  /-- STATUS.ENC (10_state R48). -/
  enc     : BitVec 2
  /-- STATUS.OABSENT (10_state R49). -/
  oabsent : Bool
  /-- CHK (10_state R50). -/
  chk     : Chk
  /-- CSUM (10_state R51). -/
  csum    : Chk
  /-- ILEN (10_state R52). -/
  ilen    : BitVec 16
  /-- IFLAGS.IABSENT (10_state R53). -/
  iabsent : Bool
  /-- HLEN_IN (10_state R54). -/
  hlenIn  : BitVec 16
  /-- HLEN_OUT (10_state R55). -/
  hlenOut : BitVec 16
  /-- OLEN (10_state R56). -/
  olen    : BitVec 16
  /-- RESULT (10_state R57). -/
  result  : BitVec 8
  /-- IBUF (10_state R58). -/
  ibuf    : Memory
  /-- OBUF (10_state R59). -/
  obuf    : Memory
  /-- PEND (10_state R60): empty, or a command word. -/
  pend    : Option Word
  /-- The model's own (log 1): the coming turns, the next one first. With none listed the engine moves when it can. -/
  turns   : List Turn
  /-- The model's own (log 5): the data the last read returned to the host. -/
  rdata   : Word
  deriving DecidableEq, Repr

/-- What stops the machine. -/
inductive Fault where
  /-- A host access that is not an aligned 32-bit word of the window (20_memory R74, R80). Raised by the host's read
  and write turns only. The spec itself makes it a fault of the host's step (60_exceptions R246). Safe. -/
  | busError
  deriving DecidableEq, Repr

/-- An instruction without a meaning. -/
inductive Refusal where
  /-- Raised by a rejected arm of `exec`. Safe. No arm is rejected in this model. -/
  | notModelled (mnemonic : String)
  deriving DecidableEq, Repr

/-- What a step of the machine answers. -/
abbrev Result := Host.Outcome State Fault Refusal

/-- The state after reset (70_reset_and_hazards R281): CHK = 1, every other register and field 0, every entry of both
buffers 0, PEND empty. `turns` and `rdata` are the model's own (log 1, log 5). -/
def State.reset : State where
  irqEn   := false
  done    := false
  err     := false
  ovr     := false
  errcode := 0#5
  enc     := 0#2
  oabsent := false
  chk     := 1#30
  csum    := 0#30
  ilen    := 0#16
  iabsent := false
  hlenIn  := 0#16
  hlenOut := 0#16
  olen    := 0#16
  result  := 0#8
  ibuf    := []
  obuf    := []
  pend    := none
  turns   := []
  rdata   := 0#32

end Sys2Proof.Machine
end

