-- ==== Sys2Proof/Machine/Flags.lean ====
section
/-! DEFINITION. The STATUS and CTRL words and the codes in their fields (10_state R41, R43 to R49, 60_exceptions R241), and the IRQ output (60_exceptions R247). -/

namespace Sys2Proof.Machine

/-- The code of an error kind (60_exceptions R241). -/
def errCode : ErrKind → BitVec 5
  | .tooShort                => 1#5
  | .tooLong                 => 2#5
  | .mixedCase               => 3#5
  | .charOutOfRange          => 4#5
  | .missingSeparator        => 5#5
  | .hrpTooShort             => 6#5
  | .hrpTooLong              => 7#5
  | .dataTooShort            => 8#5
  | .charsetCharInvalid      => 9#5
  | .charsetValueOutOfRange  => 10#5
  | .hrpAndDpCombinedTooLong => 11#5
  | .badChecksum             => 12#5
  | .nullInput               => 13#5
  | .illegalCommand          => 14#5
  | .bufferOverflow          => 15#5
  | .lengthMismatch          => 16#5

/-- STATUS.ENC of an encoding tag (10_state R48): NONE = 0, BECH32 = 1, BECH32M = 2; 3 is never written. -/
def encCode : Option Variant → BitVec 2
  | none          => 0#2
  | some .bech32  => 1#2
  | some .bech32m => 2#2

/-- STATUS.BUSY: 1 exactly while PEND holds a command (10_state R44, R60). -/
def busy (s : State) : Bool := s.pend.isSome

/-- The STATUS word (10_state R43), its fields from bit 31 down: reserved, OABSENT, ENC, ERRCODE, OVR, ERR, DONE, BUSY. -/
def statusWord (s : State) : Word :=
  0#20 ++ BitVec.ofBool s.oabsent ++ s.enc ++ s.errcode ++ BitVec.ofBool s.ovr ++ BitVec.ofBool s.err ++
    BitVec.ofBool s.done ++ BitVec.ofBool (busy s)

/-- The CTRL word (10_state R41): SRST reads 0. -/
def ctrlWord (s : State) : Word := 0#30 ++ BitVec.ofBool s.irqEn ++ 0#1

/-- The IRQ output, a function of the state (60_exceptions R247). -/
def irq (s : State) : Bool := s.done && s.irqEn

end Sys2Proof.Machine
end

