-- ==== Sys2Proof/Machine/Memory.lean ====
section
/-! DEFINITION. The two buffers as memories: one byte per entry, keyed by the entry's index (10_state R58, R59), in one canonical form. Bits [31:8] of an entry's word have no storage (20_memory R77); the word is built in Window.lean. -/

namespace Sys2Proof.Machine

/-- What an entry that is not listed reads as: the reset contents of every entry (70_reset_and_hazards R281). -/
def unlistedByte : Byte := 0#8

/-- Entry `i`. -/
def Memory.read : Memory → Nat → Byte
  | [], _ => unlistedByte
  | (k, v) :: m, i => if k = i then v else Memory.read m i

/-- Entry `i` set to `b`, in a sorted list; writing what an unlisted entry reads as removes the entry. -/
def Memory.put : Memory → Nat → Byte → Memory
  | [], i, b => if b = unlistedByte then [] else [(i, b)]
  | (k, v) :: m, i, b =>
    if i < k then (if b = unlistedByte then (k, v) :: m else (i, b) :: (k, v) :: m)
    else if i = k then (if b = unlistedByte then m else (i, b) :: m)
    else (k, v) :: Memory.put m i b

/-- Entry `i` written. A buffer has entries 0 to 127 and no other (log 7). -/
def Memory.write (m : Memory) (i : Nat) (b : Byte) : Memory :=
  if i < Config.ibufCap then m.put i b else m

/-- Entries `k`, `k + 1`, … written with the bytes of a sequence, in order. -/
def Memory.writeFrom (m : Memory) (k : Nat) : List Byte → Memory
  | [] => m
  | b :: bs => Memory.writeFrom (m.write k b) (k + 1) bs

/-- The canonical form: indices strictly rising and below the capacity, no entry equal to an unlisted one. -/
def Memory.wf (m : Memory) : Bool :=
  decide (m.Pairwise fun c d => c.1 < d.1) &&
    m.all fun c => decide (c.1 < Config.ibufCap) && decide (c.2 ≠ unlistedByte)

end Sys2Proof.Machine
end

