-- ==== Sys2Proof/Machine/Ops.lean ====
section
/-! DEFINITION. The operations every command and every host write share: issue (44_control R230), completion with its two branches, which is what an error is on this machine (44_control R231, 60_exceptions R240), and reset (70_reset_and_hazards R281). There is no trap entry and no return (60_exceptions R249, R250). -/

namespace Sys2Proof.Machine

/-- What a command's body ends with when it does not raise: the state with its staged writes applied (00_scope R10), the
encoding tag, and whether the input was absent: `finish(enc)` or `finish(enc, absent)` (44_control R231). -/
structure Finish where
  staged : State
  enc    : Option Variant
  absent : Bool

/-- A command's body: it raises an error kind, its staged writes lost, or finishes (00_scope R11, 44_control R231). -/
abbrev Body := Except ErrKind Finish

/-- `finish(enc)`, the writes so far staged. -/
def finish (staged : State) (enc : Option Variant) : Body := .ok ⟨staged, enc, false⟩

/-- `finish(enc, absent)`. -/
def finishAbsent (staged : State) (enc : Option Variant) : Body := .ok ⟨staged, enc, true⟩

/-- Issue (44_control R230): PEND filled, DONE cleared, nothing else. -/
def issue (w : Word) (s : State) : State := { s with pend := some w, done := false }

/-- OLEN and HLEN_OUT cleared, which an erroring STRIP, ENCODE or DECODE does (44_control R231). -/
def clearOutput (s : State) : State := { s with olen := 0#16, hlenOut := 0#16 }

/-- Completion after `finish`, over the state with the staged writes applied (44_control R231). -/
def completeOk (enc : Option Variant) (absent : Bool) (s : State) : State :=
  { s with err := false, errcode := 0#5, enc := encCode enc, oabsent := absent, done := true, pend := none }

/-- Completion after `raise e`, over the state without the staged writes (44_control R231, 60_exceptions R243). -/
def completeErr (e : ErrKind) (s : State) : State :=
  { s with err := true, errcode := errCode e, enc := 0#2, oabsent := false, done := true, pend := none }

/-- Completion (44_control R231). `clears` says that the command is STRIP, ENCODE or DECODE. -/
def complete (clears : Bool) (s : State) : Body → State
  | .ok f    => completeOk f.enc f.absent f.staged
  | .error e => completeErr e (if clears then clearOutput s else s)

/-- A command's end: one atomic step to the completed state (20_memory R79). -/
def commit (clears : Bool) (s : State) (b : Body) : Result := .next (complete clears s b)

/-- A sequence put out: OBUF from entry 0, OLEN its length, HLEN_OUT as given (20_memory R88). -/
def putOutput (out : List Byte) (hlen : Nat) (s : State) : State :=
  { s with obuf := s.obuf.writeFrom 0 out, olen := BitVec.ofNat 16 out.length, hlenOut := BitVec.ofNat 16 hlen }

/-- Reset, the same for RST_N and SRST (70_reset_and_hazards R280, R281): the whole block at its reset values. What the
model keeps of the outside, the coming turns and the data the host holds, is no state of the block and stays. -/
def resetBlock (s : State) : State := { State.reset with turns := s.turns, rdata := s.rdata }

/-- The engine's step on an illegal word (60_exceptions R244): only STATUS changes, and the word is not recorded. -/
def completeIllegal (s : State) : Result := commit false s (.error .illegalCommand)

end Sys2Proof.Machine
end

