-- ==== Sys2Proof/Machine/Operands.lean ====
section
/-! DEFINITION. The operand forms of the commands: the input sequence in IBUF (20_memory R87), the 8-bit ARG taken as a data value (30_encoding R102), and the constant SEL selects (30_encoding R103). -/

namespace Sys2Proof.Machine

/-- ILEN as a number. -/
abbrev inputLen (s : State) : Nat := s.ilen.toNat

/-- `[IBUF[a], …, IBUF[b−1]]`, empty when `a ≥ b` (00_scope R9). -/
def inputRange (s : State) (a b : Nat) : List Byte := (List.range' a (b - a)).map fun i => s.ibuf.read i

/-- The input: `[IBUF[0], …, IBUF[ILEN−1]]` (20_memory R87). -/
def inputSeq (s : State) : List Byte := inputRange s 0 (inputLen s)

/-- A data value taken as a 5-bit symbol: it must be at most 31 (30_encoding R102, 41_charset R142). -/
def asSym (v : Byte) : Except ErrKind Sym :=
  if v > 31#8 then .error .charsetValueOutOfRange else .ok (v.setWidth 5)

/-- Data values taken as symbols, all or none: the check is over the whole sequence (42_checksum R181, D31). -/
def asSyms (vs : List Byte) : Except ErrKind (List Sym) :=
  if ∃ v ∈ vs, v > 31#8 then .error .charsetValueOutOfRange else .ok (vs.map fun v => v.setWidth 5)

/-- A symbol as a stored byte. -/
def symByte (v : Sym) : Byte := v.setWidth 8

end Sys2Proof.Machine
end

