-- ==== Sys2Proof/Machine/Charset.lean ====
section
/-! DEFINITION. The character-set mapper: the two ROMs and the three functions (41_charset R140 to R144), and the commands MAP_DEC, MAP_ENC and STRIP (R146 to R148). -/

namespace Sys2Proof.Machine

/-- The ROM ALPHABET (10_state R35, 41_charset R140): the codes of `qpzry9x8gf2tvdw0s3jn54khce6mua7l`. -/
def alphabet : List Byte :=
  [0x71#8, 0x70#8, 0x7A#8, 0x72#8, 0x79#8, 0x39#8, 0x78#8, 0x38#8] ++
  [0x67#8, 0x66#8, 0x32#8, 0x74#8, 0x76#8, 0x64#8, 0x77#8, 0x30#8] ++
  [0x73#8, 0x33#8, 0x6A#8, 0x6E#8, 0x35#8, 0x34#8, 0x6B#8, 0x68#8] ++
  [0x63#8, 0x65#8, 0x36#8, 0x6D#8, 0x75#8, 0x61#8, 0x37#8, 0x6C#8]

/-- ALPHABET[v]. The ROM has an entry for every symbol. -/
def alphabetAt (v : Sym) : Byte := alphabet.getD v.toNat 0#8

/-- Rows 0x40 to 0x5F and 0x60 to 0x7F of the table of R141, which are equal. -/
def revmapLetters : List (Option Sym) :=
  [none, some 29#5, none, some 24#5, some 13#5, some 25#5, some 9#5, some 8#5] ++
  [some 23#5, none, some 18#5, some 22#5, some 31#5, some 27#5, some 19#5, none] ++
  [some 1#5, some 0#5, some 3#5, some 16#5, some 11#5, some 28#5, some 12#5, some 14#5] ++
  [some 6#5, some 4#5, some 2#5, none, none, none, none, none]

/-- Row 0x30 of the table of R141. -/
def revmapDigits : List (Option Sym) :=
  [some 15#5, none, some 10#5, some 17#5, some 21#5, some 20#5, some 26#5, some 30#5] ++
  [some 7#5, some 5#5, none, none, none, none, none, none]

/-- The ROM REVMAP (10_state R36, 41_charset R141); `none` is SENTINEL. -/
def revmap : List (Option Sym) :=
  List.replicate 48 none ++ revmapDigits ++ revmapLetters ++ revmapLetters

/-- REVMAP[c], for a code below 128. -/
def revmapAt (c : Byte) : Option Sym := revmap.getD c.toNat none

/-- The encode mapping of one data value (R142). -/
def mapEnc (v : Byte) : Except ErrKind Byte :=
  match asSym v with
  | .error e => .error e
  | .ok x => .ok (alphabetAt x)

/-- The decode mapping of one character code (R143). -/
def mapDec (c : Byte) : Except ErrKind Sym :=
  if c ≥ 0x80#8 then .error .charOutOfRange
  else match revmapAt c with
    | none => .error .charsetCharInvalid
    | some v => .ok v

/-- A sequence mapped left to right, failing with its first failing element's error (R143). -/
def mapDecSeq : List Byte → Except ErrKind (List Sym)
  | [] => .ok []
  | c :: cs =>
    match mapDec c with
    | .error e => .error e
    | .ok v =>
      match mapDecSeq cs with
      | .error e => .error e
      | .ok vs => .ok (v :: vs)

/-- The separator, or a character of the alphabet in either case (R144). -/
def keep (c : Byte) : Bool := c == Config.sep || (c < 0x80#8 && (revmapAt c).isSome)

/-- The stray-character filter on a present string (R144). -/
def strip (s : List Byte) : List Byte := s.filter keep

/-- R146. -/
def mapDecBody (arg : Byte) (s : State) : Body :=
  match mapDec arg with
  | .error e => .error e
  | .ok v => finish { s with result := symByte v } none

/-- MAP_DEC (R146): RESULT on success, STATUS always. -/
def execMapDec (arg : Byte) (s : State) : Result := commit false s (mapDecBody arg s)

/-- R147. -/
def mapEncBody (arg : Byte) (s : State) : Body :=
  match mapEnc arg with
  | .error e => .error e
  | .ok ch => finish { s with result := ch } none

/-- MAP_ENC (R147): RESULT on success, STATUS always. -/
def execMapEnc (arg : Byte) (s : State) : Result := commit false s (mapEncBody arg s)

/-- R148. The absent input passes through as absent: OABSENT, and no error. -/
def stripBody (s : State) : Body :=
  if s.iabsent then finishAbsent (clearOutput s) none
  else if inputLen s > Config.ibufCap then .error .bufferOverflow
  else finish (putOutput (strip (inputSeq s)) 0 s) none

/-- STRIP (R148): OBUF, OLEN and HLEN_OUT on success, OLEN and HLEN_OUT cleared on an error, STATUS always. -/
def execStrip (s : State) : Result := commit true s (stripBody s)

end Sys2Proof.Machine
end

