-- ==== Sys2Proof/Machine/Checksum.lean ====
section
/-! DEFINITION. The checksum engine: the constants and the functions (42_checksum R170 to R176), and the six commands over CHK (R178 to R183). -/

namespace Sys2Proof.Machine

/-- The ROM GEN (10_state R37, 42_checksum R170; log 6). -/
def genRom : List Chk := [0x3B6A57B2#30, 0x26508E6D#30, 0x1EA119FA#30, 0x3D4233DD#30, 0x2A1462B3#30]

/-- GEN[i]. -/
def gen (i : Nat) : Chk := genRom.getD i 0#30

/-- K(SEL): K_BECH32 = 1 and K_BECH32M = 0x2BC830A3 (R171, 30_encoding R103). -/
def checksumConst : Variant → Chk
  | .bech32  => 1#30
  | .bech32m => 0x2BC830A3#30

/-- GEN[i] folded in when bit i of the top five bits is 1 (R172). -/
def foldGen (b : BitVec 5) (c : Chk) (i : Nat) : Chk := if b.getLsbD i then c ^^^ gen i else c

/-- One polymod step (R172): the low 25 bits of the state shifted left by 5, the value folded in, then each generator
gated by its bit of the state's top five. -/
def polyStep (c : Chk) (v : Sym) : Chk :=
  [0, 1, 2, 3, 4].foldl (foldGen (c.extractLsb' 25 5)) (((c.extractLsb' 0 25).setWidth 30 <<< 5) ^^^ v.setWidth 30)

/-- The fold from a state (R173). -/
def foldFrom (c : Chk) : List Sym → Chk
  | [] => c
  | v :: vs => foldFrom (polyStep c v) vs

/-- polymod (R173): the fold from 1. -/
def polymod (vs : List Sym) : Chk := foldFrom 1#30 vs

/-- HRP expansion (R174): every high 3 bits, then 0, then every low 5 bits; the codes as they stand. -/
def expand (h : List Byte) : List Sym :=
  h.map (fun c : Byte => (c >>> 5).setWidth 5) ++ [0#5] ++ h.map (fun c : Byte => (c &&& 31#8).setWidth 5)

/-- The six zero placeholders (R175). -/
def sixZeros : List Sym := List.replicate Config.csumLen 0#5

/-- The six 5-bit groups of a checksum word, the most significant first (R175). -/
def groups (m : Chk) : List Sym := (List.range 6).map fun i => (m >>> (5 * (5 - i))).setWidth 5

/-- Checksum creation (R175). -/
def createChecksum (h : List Byte) (d : List Sym) (k : Chk) : List Sym :=
  groups (polymod (expand h ++ d ++ sixZeros) ^^^ k)

/-- The constant a residue equals, if it equals one (R176). -/
def residueTag (r : Chk) : Except ErrKind Variant :=
  if r = checksumConst .bech32m then .ok .bech32m
  else if r = checksumConst .bech32 then .ok .bech32
  else .error .badChecksum

/-- Checksum verification over the whole data part (R176). -/
def verifyChecksum (h : List Byte) (dv : List Sym) : Except ErrKind Variant := residueTag (polymod (expand h ++ dv))

/-- R178. -/
def chkInitBody (s : State) : Body := finish { s with chk := 1#30 } none

/-- CHK_INIT (R178): CHK ← 1. -/
def execChkInit (s : State) : Result := commit false s (chkInitBody s)

/-- R179. -/
def chkStepBody (arg : Byte) (s : State) : Body :=
  match asSym arg with
  | .error e => .error e
  | .ok v => finish { s with chk := polyStep s.chk v } none

/-- CHK_STEP (R179): one value folded into CHK. -/
def execChkStep (arg : Byte) (s : State) : Result := commit false s (chkStepBody arg s)

/-- R180: no lower-casing, no length or range check on the codes, and CHK not reset first. -/
def chkHrpBody (s : State) : Body :=
  if s.iabsent then .error .nullInput
  else if inputLen s > Config.ibufCap then .error .bufferOverflow
  else finish { s with chk := foldFrom s.chk (expand (inputSeq s)) } none

/-- CHK_HRP (R180): the input's expansion folded into CHK. -/
def execChkHrp (s : State) : Result := commit false s (chkHrpBody s)

/-- R181: all the values are checked before any is folded in. -/
def chkDataBody (s : State) : Body :=
  if s.iabsent then .error .nullInput
  else if inputLen s > Config.ibufCap then .error .bufferOverflow
  else match asSyms (inputSeq s) with
    | .error e => .error e
    | .ok d => finish { s with chk := foldFrom s.chk d } none

/-- CHK_DATA (R181): the input's values folded into CHK. -/
def execChkData (s : State) : Result := commit false s (chkDataBody s)

/-- R182. -/
def chkFinalBody (sel : Variant) (s : State) : Body :=
  finish { s with csum := foldFrom s.chk sixZeros ^^^ checksumConst sel } none

/-- CHK_FINAL (R182): CSUM from CHK, which stays. -/
def execChkFinal (sel : Variant) (s : State) : Result := commit false s (chkFinalBody sel s)

/-- R183. -/
def chkVerifyBody (s : State) : Body :=
  match residueTag s.chk with
  | .error e => .error e
  | .ok k => finish s (some k)

/-- CHK_VERIFY (R183): the tag of the constant CHK equals, or BadChecksum. -/
def execChkVerify (s : State) : Result := commit false s (chkVerifyBody s)

end Sys2Proof.Machine
end

