-- ==== Sys2Proof/Machine/Structure.lean ====
section
/-! DEFINITION. The validator and the splitter (40_validate_split R120 to R124), and the command VALIDATE (R126). -/

namespace Sys2Proof.Machine

/-- An upper-case letter, 'A' to 'Z' (R120). -/
def isUpper (c : Byte) : Bool := 0x41#8 ≤ c && c ≤ 0x5A#8

/-- A lower-case letter, 'a' to 'z' (R120). -/
def isLower (c : Byte) : Bool := 0x61#8 ≤ c && c ≤ 0x7A#8

/-- The lower-case form of a code (R120). -/
def lower (c : Byte) : Byte := if isUpper c then c + 0x20#8 else c

/-- The upper-case form of a code (43_codec R207). -/
def upper (c : Byte) : Byte := if isLower c then c - 0x20#8 else c

/-- A code outside 0x21 to 0x7E (R121, step 4). -/
def codeOutOfRange (c : Byte) : Bool := c < Config.codeMin || c > Config.codeMax

/-- The lexical checks in their fixed order (R121). -/
def lexical (s : List Byte) : Except ErrKind Unit :=
  if s.length < Config.minLen then .error .tooShort
  else if s.length > Config.maxLen then .error .tooLong
  else if s.any isUpper && s.any isLower then .error .mixedCase
  else if s.any codeOutOfRange then .error .charOutOfRange
  else if s.all (· ≠ Config.sep) then .error .missingSeparator
  else .ok ()

/-- The index of the last separator, if there is one (R122). -/
def lastSep : List Byte → Option Nat
  | [] => none
  | c :: cs =>
    match lastSep cs with
    | some p => some (p + 1)
    | none => if c = Config.sep then some 0 else none

/-- A string cut at its last separator (R122): the HRP with its case as written, the DP as raw characters. -/
structure Split where
  sep : Nat
  hrp : List Byte
  dp  : List Byte
  deriving DecidableEq, Repr

/-- The split at index `p` (R122). -/
def splitAtSep (s : List Byte) (p : Nat) : Split := ⟨p, s.take p, s.drop (p + 1)⟩

/-- The length checks after the split, in order (R123). -/
def postSplit (x : Split) : Except ErrKind Unit :=
  if x.hrp.length < Config.hrpMin then .error .hrpTooShort
  else if x.hrp.length > Config.hrpMax then .error .hrpTooLong
  else if x.dp.length < Config.dpMin then .error .dataTooShort
  else .ok ()

/-- The whole structural check (R124). A string that passes `lexical` has a separator, so the split always finds one. -/
def structural (s : List Byte) : Except ErrKind Split :=
  match lexical s with
  | .error e => .error e
  | .ok () =>
    match lastSep s with
    | none => .error .missingSeparator
    | some p =>
      match postSplit (splitAtSep s p) with
      | .error e => .error e
      | .ok () => .ok (splitAtSep s p)

/-- R126. -/
def validateBody (s : State) : Body :=
  if s.iabsent then .error .nullInput
  else if inputLen s < Config.minLen then .error .tooShort
  else if inputLen s > Config.maxLen then .error .tooLong
  else match structural (inputSeq s) with
    | .error e => .error e
    | .ok x => finish { s with result := BitVec.ofNat 8 x.sep } none

/-- VALIDATE (R126): RESULT on success, STATUS always. -/
def execValidate (s : State) : Result := commit false s (validateBody s)

end Sys2Proof.Machine
end

