-- ==== Sys2Proof/Machine/Codec.lean ====
section
/-! DEFINITION. The two entry points as functions (43_codec R200, R202) and the commands DECODE and ENCODE (R203, R204). Both fold in a private accumulator: CHK is neither read nor written (10_state R61). -/

namespace Sys2Proof.Machine

/-- What decode returns: the lower-cased HRP, the payload with the checksum stripped, the constant that matched (R200). -/
structure Decoded where
  hrp     : List Byte
  payload : List Sym
  variant : Variant
  deriving DecidableEq, Repr

/-- The decode function on a present string (R200): validate and split, map, lower-case the HRP, verify against both
constants, strip the checksum. -/
def decodeString (s : List Byte) : Except ErrKind Decoded :=
  match structural s with
  | .error e => .error e
  | .ok x =>
    match mapDecSeq x.dp with
    | .error e => .error e
    | .ok dv =>
      match verifyChecksum (x.hrp.map lower) dv with
      | .error e => .error e
      | .ok k => .ok ⟨x.hrp.map lower, dv.take (dv.length - Config.csumLen), k⟩

/-- The encode function (R202), its checks in order. -/
def encodeString (h d : List Byte) (sel : Variant) : Except ErrKind (List Byte) :=
  if h.length < Config.hrpMin then .error .hrpTooShort
  else if h.length > Config.hrpMax then .error .hrpTooLong
  else if h.length + d.length + 1 + Config.csumLen > Config.maxLen then .error .hrpAndDpCombinedTooLong
  else if h.any codeOutOfRange then .error .charOutOfRange
  else match asSyms d with
    | .error e => .error e
    | .ok ds =>
      .ok (h.map lower ++ [Config.sep] ++ ds.map alphabetAt ++
        (createChecksum (h.map lower) ds (checksumConst sel)).map alphabetAt)

/-- R203. The lengths are decided on ILEN alone, so no entry from 90 on is read. -/
def decodeBody (s : State) : Body :=
  if s.iabsent then .error .nullInput
  else if inputLen s < Config.minLen then .error .tooShort
  else if inputLen s > Config.maxLen then .error .tooLong
  else match decodeString (inputSeq s) with
    | .error e => .error e
    | .ok x => finish (putOutput (x.hrp ++ x.payload.map symByte) x.hrp.length s) (some x.variant)

/-- DECODE (R203): OBUF, HLEN_OUT, OLEN and ENC on success, OLEN and HLEN_OUT cleared on an error, STATUS always. -/
def execDecode (s : State) : Result := commit true s (decodeBody s)

/-- R204. The HRP is the first HLEN_IN entries, the data values are the rest of the input. -/
def encodeBody (sel : Variant) (s : State) : Body :=
  if s.iabsent then .error .nullInput
  else if s.hlenIn.toNat > inputLen s then .error .lengthMismatch
  else if s.hlenIn.toNat < Config.hrpMin then .error .hrpTooShort
  else if s.hlenIn.toNat > Config.hrpMax then .error .hrpTooLong
  else if inputLen s + 7 > Config.maxLen then .error .hrpAndDpCombinedTooLong
  else match encodeString (inputRange s 0 s.hlenIn.toNat) (inputRange s s.hlenIn.toNat (inputLen s)) sel with
    | .error e => .error e
    | .ok out => finish (putOutput out 0 s) (some sel)

/-- ENCODE (R204): OBUF, OLEN, HLEN_OUT = 0 and ENC on success, OLEN and HLEN_OUT cleared on an error, STATUS always. -/
def execEncode (sel : Variant) (s : State) : Result := commit true s (encodeBody sel s)

end Sys2Proof.Machine
end

