-- ==== Sys2Proof/Machine/Control.lean ====
section
/-! DEFINITION. The command NOP (44_control R233). -/

namespace Sys2Proof.Machine

/-- NOP (R233): success, and no other effect. It orders nothing (20_memory R83). -/
def execNop (s : State) : Result := commit false s (finish s none)

end Sys2Proof.Machine
end

