-- ==== Sys2Proof/Machine/Dispatch.lean ====
section
/-! DEFINITION. One arm per command (30_encoding R105): the body of a legal command and its completion (44_control R232). -/

namespace Sys2Proof.Machine

-- 44_control.md, 40_validate_split.md, 41_charset.md, 42_checksum.md, 43_codec.md, in the order of the opcodes.
def exec (i : Instr) (s : State) : Host.Outcome State Fault Refusal :=
  match i with
  | .nop => Sys2Proof.Machine.execNop s
  | .validate => Sys2Proof.Machine.execValidate s
  | .mapDec arg => Sys2Proof.Machine.execMapDec arg s
  | .mapEnc arg => Sys2Proof.Machine.execMapEnc arg s
  | .strip => Sys2Proof.Machine.execStrip s
  | .chkInit => Sys2Proof.Machine.execChkInit s
  | .chkStep arg => Sys2Proof.Machine.execChkStep arg s
  | .chkHrp => Sys2Proof.Machine.execChkHrp s
  | .chkData => Sys2Proof.Machine.execChkData s
  | .chkFinal sel => Sys2Proof.Machine.execChkFinal sel s
  | .chkVerify => Sys2Proof.Machine.execChkVerify s
  | .encode sel => Sys2Proof.Machine.execEncode sel s
  | .decode => Sys2Proof.Machine.execDecode s

end Sys2Proof.Machine
end

