-- ==== Sys2Proof/Machine/Window.lean ====
section
/-! DEFINITION. The host window: its map (10_state R39, 20_memory R72), reading and writing one word of it (20_memory R76 to R80), and the host's access primitives with the bus error (R73, R74, R80). -/

namespace Sys2Proof.Machine

/-- What stands at an offset of the window (20_memory R72). -/
inductive WindowReg where
  | id
  | ctrl
  | cmd
  | status
  | chk
  | csum
  | ilen
  | iflags
  | hlenIn
  | hlenOut
  | olen
  | result
  | ibuf (i : Nat)
  | obuf (i : Nat)
  | reserved
  deriving DecidableEq, Repr

/-- The map of aligned offsets (10_state R39, 20_memory R72). -/
def regAt (off : Nat) : WindowReg :=
  if off = 0x000 then .id
  else if off = 0x004 then .ctrl
  else if off = 0x008 then .cmd
  else if off = 0x00C then .status
  else if off = 0x010 then .chk
  else if off = 0x014 then .csum
  else if off = 0x018 then .ilen
  else if off = 0x01C then .iflags
  else if off = 0x020 then .hlenIn
  else if off = 0x024 then .hlenOut
  else if off = 0x028 then .olen
  else if off = 0x02C then .result
  else if 0x200 ≤ off ∧ off < 0x400 then .ibuf ((off - 0x200) / 4)
  else if 0x400 ≤ off ∧ off < 0x600 then .obuf ((off - 0x400) / 4)
  else .reserved

/-- The word a read returns (10_state R39 to R59). CMD and every reserved offset read 0, and so do reserved bits
(20_memory R76, R77). -/
def readReg (s : State) : WindowReg → Word
  | .id       => Config.idValue
  | .ctrl     => ctrlWord s
  | .cmd      => 0#32
  | .status   => statusWord s
  | .chk      => s.chk.setWidth 32
  | .csum     => s.csum.setWidth 32
  | .ilen     => s.ilen.setWidth 32
  | .iflags   => (BitVec.ofBool s.iabsent).setWidth 32
  | .hlenIn   => s.hlenIn.setWidth 32
  | .hlenOut  => s.hlenOut.setWidth 32
  | .olen     => s.olen.setWidth 32
  | .result   => s.result.setWidth 32
  | .ibuf i   => (s.ibuf.read i).setWidth 32
  | .obuf i   => (s.obuf.read i).setWidth 32
  | .reserved => 0#32

/-- A CTRL write, which takes effect at once, BUSY or not (10_state R41): SRST resets the whole block, the IRQ_EN bit of
the same write not kept. -/
def writeCtrl (v : Word) (s : State) : State :=
  if v.getLsbD 0 then resetBlock s else { s with irqEn := v.getLsbD 1 }

/-- A STATUS write (10_state R43): DONE and OVR are write-1-to-clear, the rest is read-only. -/
def writeStatus (v : Word) (s : State) : State :=
  { s with done := s.done && !v.getLsbD 1, ovr := s.ovr && !v.getLsbD 3 }

/-- A write that is not dropped, other than to CTRL (20_memory R80): a field takes the value cut to its width; read-only
and reserved words ignore it (R76, R77). -/
def writeIdle (v : Word) (s : State) : WindowReg → State
  | .cmd     => issue v s
  | .status  => writeStatus v s
  | .chk     => { s with chk := v.setWidth 30 }
  | .ilen    => { s with ilen := v.setWidth 16 }
  | .iflags  => { s with iabsent := v.getLsbD 0 }
  | .hlenIn  => { s with hlenIn := v.setWidth 16 }
  | .ibuf i  => { s with ibuf := s.ibuf.write i (v.setWidth 8) }
  | .id | .ctrl | .csum | .hlenOut | .olen | .result | .obuf _ | .reserved => s

/-- A write dropped because BUSY = 1 (70_reset_and_hazards R285): nothing but OVR. -/
def dropWrite (s : State) : State := { s with ovr := true }

/-- One word written (20_memory R80). -/
def writeReg (v : Word) (s : State) (r : WindowReg) : State :=
  if r = .ctrl then writeCtrl v s
  else if busy s then dropWrite s
  else writeIdle v s r

/-- The offset of a platform address in the window (20_memory R70). -/
def windowOffset (addr : Nat) : Option Nat :=
  if Config.base ≤ addr ∧ addr < Config.base + 0x1000 then some (addr - Config.base) else none

/-- The window word an access reaches: an aligned 32-bit word, or nothing (20_memory R73, R74, R80). -/
def accessReg (addr size : Nat) : Option WindowReg :=
  match windowOffset addr with
  | none => none
  | some off => if size = 4 ∧ off % 4 = 0 then some (regAt off) else none

/-- MemRead (20_memory R80); `none` is the bus error. -/
def memRead (s : State) (addr size : Nat) : Option Word := (accessReg addr size).map (readReg s)

/-- MemWrite (20_memory R80); `none` is the bus error, which changes nothing (R74). -/
def memWrite (s : State) (addr size : Nat) (v : Word) : Option State := (accessReg addr size).map (writeReg v s)

end Sys2Proof.Machine
end

