-- ==== Sys2Proof/Machine/Port.lean ====
section
/-! DEFINITION. The agents' turns: which one is next, what the engine would run, and the step of a host action (10_state R30, 20_memory R81, 44_control R232, 30_encoding R110, R112). -/

namespace Sys2Proof.Machine

/-- The next turn. With none listed it is the engine's: a pending command is eventually completed (44_control R232; log 1). -/
def nextTurn (s : State) : Turn := s.turns.headD .engine

/-- The state once that turn is taken from the list. -/
def popTurn (s : State) : State := { s with turns := s.turns.tail }

/-- The word the engine would run: PEND (44_control R232). There is no fetch from a memory (20_memory R85). -/
def pendingWord (s : State) : Option Word := s.pend

/-- A bus write, or the bus error (60_exceptions R246). -/
def hostWrite (addr size : Nat) (v : Word) (s : State) : Result :=
  match memWrite s addr size v with
  | some t => .next t
  | none => .fault .busError

/-- A bus read: it changes no state of the block (20_memory R78), and its data reaches the host. -/
def hostRead (addr size : Nat) (s : State) : Result :=
  match memRead s addr size with
  | some w => .next { s with rdata := w }
  | none => .fault .busError

/-- One poll of WAIT (30_encoding R110; log 4): STATUS is read; while BUSY reads 1 the loop goes on, once the engine has
had a turn. -/
def hostPoll (s : State) : State :=
  if busy s then { s with rdata := readReg s .status, turns := .engine :: .host .wait :: s.turns }
  else { s with rdata := readReg s .status }

/-- The step of a host action, on the state with the action's turn taken from the list. -/
def hostTurn (s : State) : HostAction → Result
  | .read addr size    => hostRead addr size s
  | .write addr size v => hostWrite addr size v s
  | .writeBack addr    => hostWrite addr 4 s.rdata s
  | .wait              => .next (hostPoll s)
  | .resetPin          => .next (resetBlock s)

/-- The engine's turn with PEND empty: it has no enabled step, and all state is held (60_exceptions R257). -/
def engineIdle (s : State) : Result := .next s

end Sys2Proof.Machine
end

