-- ==== Sys2Proof/Machine/Step.lean ====
section
/-! DEFINITION. One step of the machine: the turn of the engine or of the host (10_state R30). The engine's step decodes PEND, runs the command and completes it; an illegal word completes with IllegalCommand (44_control R232). -/

namespace Sys2Proof.Machine

/-- One step. -/
def step (s : State) : Host.Outcome State Fault Refusal :=
  match nextTurn s with
  | .host a => hostTurn (popTurn s) a
  | .engine =>
    match pendingWord s with
    | none => engineIdle (popTurn s)
    | some w =>
      match decodeCmd w with
      | .ok i => exec i (popTurn s)
      | .error _ => completeIllegal (popTurn s)

/-- The state with a command word issued and the engine's turn next, so that the very next step runs it (log 10). The word
is issued as a host's CMD write issues it (44_control R230). -/
def State.withFetchWord (s : State) (nbits w : Nat) : State :=
  { issue (BitVec.ofNat 32 (w % 2 ^ nbits)) s with turns := .engine :: s.turns }

end Sys2Proof.Machine
end

