-- ==== Sys2Proof/Machine/Script.lean ====
section
/-! DEFINITION. Host scripts (30_encoding R110 to R112): each statement as the host turns it expands to. Expansion is textual: none of these is a command of the block. -/

namespace Sys2Proof.Machine

/-- `offset(reg)` (10_state R39). A reserved word has no name; the first reserved offset stands for it. -/
def regOffset : WindowReg → Nat
  | .id       => 0x000
  | .ctrl     => 0x004
  | .cmd      => 0x008
  | .status   => 0x00C
  | .chk      => 0x010
  | .csum     => 0x014
  | .ilen     => 0x018
  | .iflags   => 0x01C
  | .hlenIn   => 0x020
  | .hlenOut  => 0x024
  | .olen     => 0x028
  | .result   => 0x02C
  | .ibuf i   => 0x200 + 4 * i
  | .obuf i   => 0x400 + 4 * i
  | .reserved => 0x030

/-- The platform address of a register. -/
def regAddr (r : WindowReg) : Nat := Config.base + regOffset r

/-- `WR reg, v` (R110). -/
def scriptWr (r : WindowReg) (v : Word) : List Turn := [.host (.write (regAddr r) 4 v)]

/-- `RD reg` (R110). -/
def scriptRd (r : WindowReg) : List Turn := [.host (.read (regAddr r) 4)]

/-- `CMD X …` (R110, R111): a write of the command's word to CMD. -/
def scriptCmd (i : Instr) : List Turn := scriptWr .cmd (encode i)

/-- `WAIT` (R110). -/
def scriptWait : List Turn := [.host .wait]

/-- `LOOP n … END` (R110): the body is given the iteration number. -/
def scriptLoop (n : Nat) (body : Nat → List Turn) : List Turn := (List.range n).flatMap body

/-- `WR IBUF[j], v` for the values from index `j` on (R112). -/
def scriptFill (j : Nat) : List Byte → List Turn
  | [] => []
  | v :: vs => scriptWr (.ibuf j) (v.setWidth 32) ++ scriptFill (j + 1) vs

/-- `LOAD text` (R112). -/
def scriptLoad (text : List Byte) : List Turn :=
  scriptFill 0 text ++ scriptWr .ilen (BitVec.ofNat 32 text.length) ++ scriptWr .iflags 0#32

/-- `LOADV values` (R112), `ilen` being the current ILEN, which the host knows. -/
def scriptLoadV (ilen : Nat) (values : List Byte) : List Turn :=
  scriptFill ilen values ++ scriptWr .ilen (BitVec.ofNat 32 (ilen + values.length))

/-- `LOADNULL` (R112). -/
def scriptLoadNull : List Turn := scriptWr .iflags 1#32

/-- `COPYOUT n` (R112): each OBUF entry read and the value just read written to IBUF. -/
def scriptCopyOut (n : Nat) : List Turn :=
  scriptLoop n (fun k => scriptRd (.obuf k) ++ [.host (.writeBack (regAddr (.ibuf k)))]) ++
    scriptWr .ilen (BitVec.ofNat 32 n) ++ scriptWr .iflags 0#32

/-- `RUN X …` (R112). -/
def scriptRun (i : Instr) : List Turn := scriptCmd i ++ scriptWait

end Sys2Proof.Machine
end

