-- ==== Sys2Proof/Safety.lean ====
section
/-! DEFINITION. The terms claims are made in: the invariant of the machine, what a correct run is (60_exceptions R246), the states a completion leaves written out in the spec's numbers (44_control R231), and which error a command's input earns, read from the spec's tables over the entries of IBUF. -/

namespace Sys2Proof.Machine

/-- What holds at reset and every step keeps. Each clause is a rule's "never" or "exactly". -/
structure Inv (s : State) : Prop where
  /-- IBUF is in its canonical form: entries 0 to 127 only (10_state R58). -/
  ibufCanonical : s.ibuf.wf = true
  /-- OBUF is in its canonical form (10_state R59). -/
  obufCanonical : s.obuf.wf = true
  /-- "ERRCODE never holds 17 to 31" (10_state R46). -/
  errcodeLegal : s.errcode ≤ 16#5
  /-- ERR is 1 with a code and 0 with none (10_state R46). -/
  errHasCode : s.err = true ↔ s.errcode ≠ 0#5
  /-- ENC = 3 is never written (10_state R48). -/
  encLegal : s.enc ≠ 3#2
  /-- An error leaves no tag (10_state R48). -/
  errHasNoTag : s.err = true → s.enc = 0#2
  /-- OABSENT only after a STRIP, which was no error, and put nothing out (10_state R49, 41_charset R148). -/
  absentIsEmpty : s.oabsent = true → s.err = false ∧ s.enc = 0#2 ∧ s.olen = 0#16 ∧ s.hlenOut = 0#16
  /-- DONE is 0 while a command is pending (44_control R230). -/
  busyNotDone : busy s = true → s.done = false
  /-- OLEN "never exceeds OBUF_CAP" (10_state R56). -/
  outputFits : s.olen.toNat ≤ Config.obufCap
  /-- The HRP of a decoded output is part of the output (10_state R55, 43_codec R203). -/
  hrpInOutput : s.hlenOut ≤ s.olen

/-- A host action that is no bus error, wherever the state stands (20_memory R73, R74). -/
def HostAction.correct : HostAction → Bool
  | .read addr size    => (accessReg addr size).isSome
  | .write addr size _ => (accessReg addr size).isSome
  | .writeBack addr    => (accessReg addr 4).isSome
  | .wait              => true
  | .resetPin          => true

/-- A turn of a correct run (60_exceptions R246). -/
def Turn.correct : Turn → Bool
  | .engine => true
  | .host a => a.correct

/-- No access to come is a bus error: the run is a correct one (60_exceptions R246). -/
def hostCorrect (s : State) : Bool := s.turns.all Turn.correct

/-- The state a completion without error and without absent input leaves, over the staged writes (44_control R231). -/
def doneOk (s : State) (enc : BitVec 2) : State :=
  { s with err := false, errcode := 0#5, enc := enc, oabsent := false, done := true, pend := none }

/-- The state an error leaves (44_control R231, 60_exceptions R243). -/
def doneErr (s : State) (code : BitVec 5) : State :=
  { s with err := true, errcode := code, enc := 0#2, oabsent := false, done := true, pend := none }

/-- What an erroring STRIP, ENCODE or DECODE clears (44_control R231). -/
def outputCleared (s : State) : State := { s with olen := 0#16, hlenOut := 0#16 }

/-- STATUS.ENC of SEL: `tag(0) = 1`, `tag(1) = 2` (30_encoding R103). -/
def tagCode : Variant → BitVec 2
  | .bech32  => 1#2
  | .bech32m => 2#2

/-- Index `p` is the last separator of the input (40_validate_split R122). -/
def IsLastSep (s : State) (p : Nat) : Prop :=
  p < s.ilen.toNat ∧ s.ibuf.read p = 0x31#8 ∧ ∀ j, j < s.ilen.toNat → p < j → s.ibuf.read j ≠ 0x31#8

/-- The code of the first structural check the input fails, in the order of 60_exceptions R245 for VALIDATE. The last
three are said of the separators' places: only at 0; one at 84 or later; one with fewer than six entries after it. -/
def structureErrorOf (s : State) : Option (BitVec 5) :=
  if s.iabsent = true then some 13#5
  else if s.ilen.toNat < 8 then some 1#5
  else if s.ilen.toNat > 90 then some 2#5
  else if (∃ i, i < s.ilen.toNat ∧ (0x41#8 ≤ s.ibuf.read i ∧ s.ibuf.read i ≤ 0x5A#8)) ∧
      (∃ j, j < s.ilen.toNat ∧ (0x61#8 ≤ s.ibuf.read j ∧ s.ibuf.read j ≤ 0x7A#8)) then some 3#5
  else if ∃ i, i < s.ilen.toNat ∧ (s.ibuf.read i < 0x21#8 ∨ s.ibuf.read i > 0x7E#8) then some 4#5
  else if ∀ i, i < s.ilen.toNat → s.ibuf.read i ≠ 0x31#8 then some 5#5
  else if ∀ i, i < s.ilen.toNat → (s.ibuf.read i ≠ 0x31#8 ∨ i < 1) then some 6#5
  else if ∃ i, i < s.ilen.toNat ∧ (s.ibuf.read i = 0x31#8 ∧ 84 ≤ i) then some 7#5
  else if ∃ i, i < s.ilen.toNat ∧ (s.ibuf.read i = 0x31#8 ∧ s.ilen.toNat < i + 7) then some 8#5
  else none

/-- The code of the first check an ENCODE's input fails, in the order of 60_exceptions R245. -/
def encodeErrorOf (s : State) : Option (BitVec 5) :=
  if s.iabsent = true then some 13#5
  else if s.hlenIn.toNat > s.ilen.toNat then some 16#5
  else if s.hlenIn.toNat < 1 then some 6#5
  else if s.hlenIn.toNat > 83 then some 7#5
  else if s.ilen.toNat + 7 > 90 then some 11#5
  else if ∃ i, i < s.hlenIn.toNat ∧ (s.ibuf.read i < 0x21#8 ∨ s.ibuf.read i > 0x7E#8) then some 4#5
  else if ∃ i, i < s.ilen.toNat ∧ (s.hlenIn.toNat ≤ i ∧ s.ibuf.read i > 31#8) then some 10#5
  else none

/-- The data part's symbols: `dv` maps the entries after the separator, one by one (41_charset R143). -/
def IsDataPart (s : State) (p : Nat) (dv : List Sym) : Prop :=
  p + 1 + dv.length = s.ilen.toNat ∧ ∀ j (h : j < dv.length), alphabetAt dv[j] = lower (s.ibuf.read (p + 1 + j))

/-- The lower-cased first `p` entries of the input: the HRP (43_codec R200, R202). -/
def lowerHrp (s : State) (p : Nat) : List Byte := (List.range p).map fun i => lower (s.ibuf.read i)

/-- A CHK_STEP for each value, one after the other (42_checksum R181). -/
def chkStepEach : List Byte → State → Result
  | [], s => .next s
  | v :: vs, s =>
    match exec (.chkStep v) s with
    | .next t => chkStepEach vs t
    | .fault r => .fault r
    | .refused r => .refused r

/-- A run of `k` steps. -/
def run (k : Nat) (s : State) : Result := Host.Core.run Sys2Proof.core k s

end Sys2Proof.Machine
end

