-- ==== Sys2Proof/Certificates/Slice0/Obligations.lean ====
section
/-! DEFINITION. The statements for the provers, rule by rule of spec/. -/

open Sys2Proof Sys2Proof.Machine

/- ---- The encoding (30_encoding) ---- -/

/-- R106, R108, R111: a word decodes to an instruction exactly when it is that instruction's word. Both directions: no bit
of an encoding is dropped, and every legal word is some instruction's word. -/
def Obligations.DecodesExactlyItsOwnWord : Prop :=
  ∀ (w : Word) (i : Instr), decodeCmd w = .ok i ↔ w = encode i

/-- R106, R107: the decoder of R108 accepts exactly the words that match a row of R106; those are the words that pass the
field checks of R104 to R106; and no two rows match the same word. -/
def Obligations.LegalWordsAreTheTableRows : Prop :=
  ∀ w : Word, ((∃ i, decodeCmd w = .ok i) ↔ legalWord w = true) ∧ legalWord w = wellFormedWord w ∧
    ∀ r₁ ∈ opRows, ∀ r₂ ∈ opRows, r₁.matches w = true → r₂.matches w = true → r₁ = r₂

/-- The decoder on bytes, which is the model's own (log 17, DEDUCED from R75 and R109): it reads the word its little-endian
lanes carry. That it refuses any other number of bytes, and the name of that refusal, are the model's choice (log 17). -/
def Obligations.BytesDecodeAsTheirWord : Prop :=
  (∀ w : Word, decodeBytes (laneBytes w) = decodeCmd w) ∧
  (∀ bs : List Byte, bs.length ≠ 4 → decodeBytes bs = .error .notOneWord)

/-- R106, R111: words written out bit by bit from the spec's patterns, one or more of each family. -/
def Obligations.WrittenOutWordsDecode : Prop :=
  decodeCmd 0b00000000000000000000000000000000#32 = .ok .nop ∧
  decodeCmd 0b00000000000000000000000000000001#32 = .ok .validate ∧
  decodeCmd 0b00000000000000000111011100000010#32 = .ok (.mapDec 0x77#8) ∧
  decodeCmd 0b00000000000000000000111000000011#32 = .ok (.mapEnc 14#8) ∧
  decodeCmd 0b00000000000000000001111100000110#32 = .ok (.chkStep 31#8) ∧
  decodeCmd 0b00000000000000010000000000001001#32 = .ok (.chkFinal .bech32m) ∧
  decodeCmd 0b00000000000000000000000000001011#32 = .ok (.encode .bech32) ∧
  decodeCmd 0b00000000000000000000000000001100#32 = .ok .decode ∧
  decodeCmd 0b00000000000000000000000000001101#32 = .error .undefinedOpcode

/- ---- The functions (40_validate_split, 41_charset, 42_checksum, 43_codec) ---- -/

/-- R124: what a string that passes the structural check is: its length, one case or none, its codes, and the cut at the
last separator, with the HRP 1 to 83 long and the DP 6 to 88 long and free of separators. -/
def Obligations.StructuralPassMeansConforming : Prop :=
  ∀ (s : List Byte) (x : Split), structural s = .ok x →
    8 ≤ s.length ∧ s.length ≤ 90 ∧
    ¬((∃ c ∈ s, 0x41#8 ≤ c ∧ c ≤ 0x5A#8) ∧ (∃ c ∈ s, 0x61#8 ≤ c ∧ c ≤ 0x7A#8)) ∧
    (∀ c ∈ s, 0x21#8 ≤ c ∧ c ≤ 0x7E#8) ∧
    s = x.hrp ++ [0x31#8] ++ x.dp ∧ x.hrp.length = x.sep ∧ 0x31#8 ∉ x.dp ∧
    1 ≤ x.hrp.length ∧ x.hrp.length ≤ 83 ∧
    6 ≤ x.dp.length ∧ x.dp.length = s.length - x.sep - 1 ∧ x.dp.length ≤ 88

/-- R141: the ROM REVMAP, listed entry by entry, follows the rule: entry c is v exactly when ALPHABET[v] is the lower-case
form of c; and the table has 55 valid entries. -/
def Obligations.ReverseTableFollowsTheAlphabet : Prop :=
  (∀ (c : Byte) (v : Sym), c < 0x80#8 → (revmapAt c = some v ↔ alphabetAt v = lower c)) ∧
  (revmap.filter Option.isSome).length = 55 ∧ revmap.length = 128

/-- R145 (a) to (f). -/
def Obligations.CharsetLaws : Prop :=
  (∀ v : Sym, ∃ ch, mapEnc (symByte v) = .ok ch ∧ mapDec ch = .ok v) ∧
  (∀ (c : Byte) (v : Sym), c < 0x80#8 → revmapAt c = some v → mapEnc (symByte v) = .ok (lower c)) ∧
  (∀ c : Byte, c < 0x80#8 → mapDec c = mapDec (lower c)) ∧
  (∀ s : List Byte, strip (strip s) = strip s) ∧
  (∀ (s : List Byte) (c : Byte), c ∈ strip s → c = 0x31#8 ∨ ∃ v, mapDec c = .ok v) ∧
  mapDec 0x31#8 = .error .charsetCharInvalid

/-- R144: strip keeps, in their order, exactly the separator and the characters of the alphabet in either case. -/
def Obligations.StripKeepsTheAlphabetInOrder : Prop :=
  ∀ s : List Byte, (strip s).Sublist s ∧
    ∀ c : Byte, (strip s).count c = if c = 0x31#8 ∨ (c < 0x80#8 ∧ ∃ v, alphabetAt v = lower c) then s.count c else 0

/-- R172: one polymod step, said over the numbers: the low 25 bits shifted left by 5, the value folded in, and each
generator folded in when bit 25 + i of the old state is 1. The generator values and their pairing with the bits are those
of R170 and R172, which the spec marks as taken from general knowledge (log 6). -/
def Obligations.PolymodStepOnNumbers : Prop :=
  ∀ (c : Chk) (v : Sym), (polyStep c v).toNat =
    ((c.toNat % 2 ^ 25) * 32) ^^^ v.toNat ^^^
      (if c.toNat.testBit 25 then 0x3B6A57B2 else 0) ^^^ (if c.toNat.testBit 26 then 0x26508E6D else 0) ^^^
      (if c.toNat.testBit 27 then 0x1EA119FA else 0) ^^^ (if c.toNat.testBit 28 then 0x3D4233DD else 0) ^^^
      (if c.toNat.testBit 29 then 0x2A1462B3 else 0)

/-- R177's ground: the fold is linear over exclusive-or in the state and the values together. -/
def Obligations.FoldIsLinear : Prop :=
  ∀ (vs ws : List Sym) (c d : Chk), vs.length = ws.length →
    foldFrom (c ^^^ d) (vs.zipWith (· ^^^ ·) ws) = foldFrom c vs ^^^ foldFrom d ws

/-- R174: the expansion of L codes has 2L + 1 values: each code's bits [7:5], then 0, then each code's bits [4:0]. -/
def Obligations.ExpansionElements : Prop :=
  ∀ h : List Byte, (expand h).length = 2 * h.length + 1 ∧
    (∀ i, i < h.length → ((expand h).getD i 0#5).toNat = (h.getD i 0#8).toNat / 32 ∧
      ((expand h).getD (h.length + 1 + i) 0#5).toNat = (h.getD i 0#8).toNat % 32) ∧
    (expand h).getD h.length 1#5 = 0#5

/-- R177: a created checksum, appended to its data, verifies with the tag of its own constant. -/
def Obligations.ChecksumVerifiesItself : Prop :=
  ∀ (h : List Byte) (d : List Sym) (k : Variant),
    verifyChecksum h (d ++ createChecksum h d (checksumConst k)) = .ok k

/-- R205: the round trip of the two functions, on every input that meets ENCODE's preconditions. -/
def Obligations.DecodeInvertsEncode : Prop :=
  ∀ (h d : List Byte) (k : Variant), 1 ≤ h.length → h.length ≤ 83 → (∀ c ∈ h, 0x21#8 ≤ c ∧ c ≤ 0x7E#8) →
    (∀ v ∈ d, v ≤ 31#8) → h.length + d.length + 7 ≤ 90 →
    ∃ out, encodeString h d k = .ok out ∧
      decodeString out = .ok ⟨h.map lower, d.map fun v => v.setWidth 5, k⟩

/-- R207: decode does not tell a string of one case from its upper-case form, whatever it answers, an error included. -/
def Obligations.DecodeIgnoresCase : Prop :=
  ∀ s : List Byte, (s.any isUpper = false ∨ s.any isLower = false) → decodeString s = decodeString (s.map upper)

/- ---- The commands: what each answers, on every input (44_control, 40 to 43) ---- -/

/-- R233: NOP completes in every state, with success and no other effect; its word is 0, and every other word with OP = 0 is
illegal. -/
def Obligations.NopOnlyWritesStatus : Prop :=
  decodeCmd 0x00000000#32 = .ok .nop ∧
  (∀ w : Word, w.extractLsb' 0 8 = 0x00#8 → w ≠ 0x00000000#32 → legalWord w = false) ∧
  ∀ s : State, exec .nop s = .next (doneOk s 0#2)

/-- R178: CHK_INIT completes in every state; CHK is 1 afterwards whatever it was, and nothing else but STATUS changes. -/
def Obligations.ChkInitSetsOne : Prop :=
  decodeCmd 0x00000005#32 = .ok .chkInit ∧ ∀ s : State, exec .chkInit s = .next (doneOk { s with chk := 1#30 } 0#2)

/-- R179: CHK_STEP folds a value of at most 31 into CHK, and a larger one is CharsetValueOutOfRange with CHK unchanged. -/
def Obligations.ChkStepFoldsOneValue : Prop :=
  (∀ a : Byte, encode (.chkStep a) = 0x00000006#32 ||| (a.setWidth 32 <<< 8)) ∧
  ∀ (s : State) (arg : Byte),
    (arg ≤ 31#8 → exec (.chkStep arg) s = .next (doneOk { s with chk := polyStep s.chk (arg.setWidth 5) } 0#2)) ∧
    (arg > 31#8 → exec (.chkStep arg) s = .next (doneErr s 10#5))

/-- R180: CHK_HRP: NullInput first, then BufferOverflow; otherwise the expansion of the codes as they stand is folded
into CHK as it stands. -/
def Obligations.ChkHrpFoldsTheExpansion : Prop :=
  decodeCmd 0x00000007#32 = .ok .chkHrp ∧
  ∀ s : State, exec .chkHrp s =
    if s.iabsent = true then .next (doneErr s 13#5)
    else if s.ilen.toNat > 128 then .next (doneErr s 15#5)
    else .next (doneOk { s with chk := foldFrom s.chk (expand ((List.range s.ilen.toNat).map s.ibuf.read)) } 0#2)

/-- R181: CHK_DATA: NullInput, BufferOverflow, then CharsetValueOutOfRange if any value is above 31; otherwise the values
are folded into CHK as it stands. -/
def Obligations.ChkDataFoldsTheValues : Prop :=
  decodeCmd 0x00000008#32 = .ok .chkData ∧
  ∀ s : State, exec .chkData s =
    if s.iabsent = true then .next (doneErr s 13#5)
    else if s.ilen.toNat > 128 then .next (doneErr s 15#5)
    else if ∃ i, i < s.ilen.toNat ∧ s.ibuf.read i > 31#8 then .next (doneErr s 10#5)
    else .next (doneOk { s with
      chk := foldFrom s.chk ((List.range s.ilen.toNat).map fun i => (s.ibuf.read i).setWidth 5) } 0#2)

/-- R181: CHK_DATA over k + 1 values ends in the very state that k + 1 CHK_STEP commands over them end in. -/
def Obligations.ChkDataEqualsItsSteps : Prop :=
  ∀ s : State, s.iabsent = false → 1 ≤ s.ilen.toNat → s.ilen.toNat ≤ 128 →
    (∀ i, i < s.ilen.toNat → s.ibuf.read i ≤ 31#8) →
    exec .chkData s = chkStepEach ((List.range s.ilen.toNat).map s.ibuf.read) s

/-- R182: CHK_FINAL completes in every state: CSUM is the fold of six zeros from CHK, xor K(SEL); CHK stays; and where CHK
holds the fold of an HRP and data, CSUM's six groups are their checksum. -/
def Obligations.ChkFinalMakesTheChecksum : Prop :=
  decodeCmd 0x00000009#32 = .ok (.chkFinal .bech32) ∧ decodeCmd 0x00010009#32 = .ok (.chkFinal .bech32m) ∧
  ∀ (s : State) (k : Variant),
    exec (.chkFinal k) s = .next (doneOk { s with
      csum := foldFrom s.chk [0#5, 0#5, 0#5, 0#5, 0#5, 0#5] ^^^
        (match k with | .bech32 => 0x00000001#30 | .bech32m => 0x2BC830A3#30) } 0#2) ∧
    ∀ (h : List Byte) (d : List Sym), s.chk = foldFrom (foldFrom 1#30 (expand h)) d →
      ∃ t, exec (.chkFinal k) s = .next t ∧ t.chk = s.chk ∧
        createChecksum h d (checksumConst k) =
          [t.csum.extractLsb' 25 5, t.csum.extractLsb' 20 5, t.csum.extractLsb' 15 5, t.csum.extractLsb' 10 5,
           t.csum.extractLsb' 5 5, t.csum.extractLsb' 0 5]

/-- R183: CHK_VERIFY tells the two constants and nothing else. -/
def Obligations.ChkVerifyTellsTheConstant : Prop :=
  decodeCmd 0x0000000A#32 = .ok .chkVerify ∧
  ∀ s : State, exec .chkVerify s =
    if s.chk = 0x2BC830A3#30 then .next (doneOk s 2#2)
    else if s.chk = 1#30 then .next (doneOk s 1#2)
    else .next (doneErr s 12#5)

/-- R146: MAP_DEC: CharOutOfRange from 128 on, CharsetCharInvalid for a code that is no alphabet character in either
case, otherwise RESULT is the character's value. IFLAGS, ILEN and IBUF are not read. -/
def Obligations.MapDecReadsTheReverseTable : Prop :=
  (∀ c : Byte, encode (.mapDec c) = 0x00000002#32 ||| (c.setWidth 32 <<< 8)) ∧
  ∀ (s : State) (c : Byte),
    (c ≥ 0x80#8 → exec (.mapDec c) s = .next (doneErr s 4#5)) ∧
    (c < 0x80#8 → (∀ v, alphabetAt v ≠ lower c) → exec (.mapDec c) s = .next (doneErr s 9#5)) ∧
    (∀ v : Sym, c < 0x80#8 → alphabetAt v = lower c →
      exec (.mapDec c) s = .next (doneOk { s with result := v.setWidth 8 } 0#2))

/-- R147: MAP_ENC: RESULT is the alphabet's character for a value of at most 31, CharsetValueOutOfRange otherwise. -/
def Obligations.MapEncReadsTheAlphabet : Prop :=
  (∀ v : Byte, encode (.mapEnc v) = 0x00000003#32 ||| (v.setWidth 32 <<< 8)) ∧
  ∀ (s : State) (v : Byte),
    (v ≤ 31#8 → exec (.mapEnc v) s = .next (doneOk { s with result := alphabetAt (v.setWidth 5) } 0#2)) ∧
    (v > 31#8 → exec (.mapEnc v) s = .next (doneErr s 10#5))

/-- R126, R245: VALIDATE reports the first of its nine checks the input fails, in order, and changes STATUS only; an input
that fails none gives RESULT = the index of the last separator. Every state is one or the other. -/
def Obligations.ValidateReportsTheFirstFailure : Prop :=
  decodeCmd 0x00000001#32 = .ok .validate ∧
  ∀ s : State,
    (∀ e, structureErrorOf s = some e → exec .validate s = .next (doneErr s e)) ∧
    (structureErrorOf s = none → ∃ p, IsLastSep s p ∧
      exec .validate s = .next (doneOk { s with result := BitVec.ofNat 8 p } 0#2))

/-- R148: STRIP: the absent case, BufferOverflow, and otherwise OBUF's first entries are the kept characters, every other
entry as before, OLEN their number, HLEN_OUT 0, and nothing else but STATUS changed. -/
def Obligations.StripWritesTheKeptCharacters : Prop :=
  decodeCmd 0x00000004#32 = .ok .strip ∧
  ∀ s : State, s.obuf.wf = true →
    (s.iabsent = true → exec .strip s = .next { doneOk (outputCleared s) 0#2 with oabsent := true }) ∧
    (s.iabsent = false → s.ilen.toNat > 128 → exec .strip s = .next (doneErr (outputCleared s) 15#5)) ∧
    (s.iabsent = false → s.ilen.toNat ≤ 128 → ∃ t, exec .strip s = .next t ∧
      t = doneOk { s with obuf := t.obuf, olen := t.olen, hlenOut := 0#16 } 0#2 ∧
      t.olen.toNat = (strip ((List.range s.ilen.toNat).map s.ibuf.read)).length ∧ t.olen.toNat ≤ s.ilen.toNat ∧
      (∀ i, i < t.olen.toNat →
        t.obuf.read i = (strip ((List.range s.ilen.toNat).map s.ibuf.read)).getD i 0#8) ∧
      (∀ i, t.olen.toNat ≤ i → t.obuf.read i = s.obuf.read i))

/-- R203, R245, the errors of DECODE: the structural ones in their order, then CharsetCharInvalid, then BadChecksum; OLEN
and HLEN_OUT are cleared, OBUF stays, and nothing else but STATUS changes. -/
def Obligations.DecodeReportsTheFirstFailure : Prop :=
  ∀ s : State,
    (∀ e, structureErrorOf s = some e → exec .decode s = .next (doneErr (outputCleared s) e)) ∧
    (structureErrorOf s = none → ∀ p, IsLastSep s p →
      ((∃ i, p < i ∧ i < s.ilen.toNat ∧ ∀ v, alphabetAt v ≠ lower (s.ibuf.read i)) →
        exec .decode s = .next (doneErr (outputCleared s) 9#5)) ∧
      (∀ dv, IsDataPart s p dv → polymod (expand (lowerHrp s p) ++ dv) ≠ 0x2BC830A3#30 →
        polymod (expand (lowerHrp s p) ++ dv) ≠ 0x00000001#30 →
        exec .decode s = .next (doneErr (outputCleared s) 12#5)))

/-- R203, R208, DECODE's success: a conforming input whose residue is the constant of k puts out the lower-cased HRP and the
values without the last six, every other entry of OBUF as before; HLEN_OUT = p, OLEN = n − 7 ≤ 83, ENC the tag. -/
def Obligations.DecodePutsOutHrpAndPayload : Prop :=
  ∀ (s : State) (p : Nat) (dv : List Sym) (k : Variant), s.obuf.wf = true → structureErrorOf s = none → IsLastSep s p →
    IsDataPart s p dv → polymod (expand (lowerHrp s p) ++ dv) = checksumConst k →
    ∃ t, exec .decode s = .next t ∧
      t = doneOk { s with obuf := t.obuf, olen := t.olen, hlenOut := t.hlenOut } (tagCode k) ∧
      t.hlenOut.toNat = p ∧ t.olen.toNat = s.ilen.toNat - 7 ∧ t.olen.toNat ≤ 83 ∧
      (∀ i, i < p → t.obuf.read i = lower (s.ibuf.read i)) ∧
      (∀ j, p + j < s.ilen.toNat - 7 → t.obuf.read (p + j) = (dv.getD j 0#5).setWidth 8) ∧
      (∀ i, s.ilen.toNat - 7 ≤ i → t.obuf.read i = s.obuf.read i)

/-- R204, R245, the errors of ENCODE, in their order: OLEN and HLEN_OUT are cleared, OBUF stays, and nothing else but
STATUS changes. -/
def Obligations.EncodeReportsTheFirstFailure : Prop :=
  ∀ (s : State) (k : Variant) (e : BitVec 5), encodeErrorOf s = some e →
    exec (.encode k) s = .next (doneErr (outputCleared s) e)

/-- R202, R204, ENCODE's success: OBUF is the lower-cased HRP, the separator, the data characters and the six checksum
characters, every other entry as before; OLEN = ILEN + 7 ≤ 90, HLEN_OUT = 0, ENC the tag of SEL. -/
def Obligations.EncodePutsOutTheString : Prop :=
  ∀ (s : State) (k : Variant), s.obuf.wf = true → encodeErrorOf s = none →
    ∃ t, exec (.encode k) s = .next t ∧
      t = doneOk { s with obuf := t.obuf, olen := t.olen, hlenOut := 0#16 } (tagCode k) ∧
      t.olen.toNat = s.ilen.toNat + 7 ∧ t.olen.toNat ≤ 90 ∧
      (∀ i, i < s.hlenIn.toNat → t.obuf.read i = lower (s.ibuf.read i)) ∧
      t.obuf.read s.hlenIn.toNat = 0x31#8 ∧
      (∀ i, s.hlenIn.toNat ≤ i → i < s.ilen.toNat → t.obuf.read (i + 1) = alphabetAt ((s.ibuf.read i).setWidth 5)) ∧
      (∀ j, j < 6 → t.obuf.read (s.ilen.toNat + 1 + j) = alphabetAt ((createChecksum (lowerHrp s s.hlenIn.toNat)
        ((List.range' s.hlenIn.toNat (s.ilen.toNat - s.hlenIn.toNat)).map fun i => (s.ibuf.read i).setWidth 5)
        (checksumConst k)).getD j 0#5)) ∧
      (∀ i, s.ilen.toNat + 7 ≤ i → t.obuf.read i = s.obuf.read i)

/-- R205, R208 on the machine: what a successful ENCODE put out, handed back as the input of a DECODE in any state, decodes
without error to the lower-cased HRP, the data values and the tag of the constant. -/
def Obligations.EncodedOutputDecodesBack : Prop :=
  ∀ (s t u : State) (k : Variant), s.obuf.wf = true → u.obuf.wf = true →
    exec (.encode k) s = .next t → t.err = false →
    u.iabsent = false → u.ilen = t.olen → (∀ i, i < t.olen.toNat → u.ibuf.read i = t.obuf.read i) →
    ∃ v, exec .decode u = .next v ∧ v.err = false ∧ v.enc = tagCode k ∧ v.hlenOut = s.hlenIn ∧ v.olen = s.ilen ∧
      (∀ i, i < s.hlenIn.toNat → v.obuf.read i = lower (s.ibuf.read i)) ∧
      (∀ i, s.hlenIn.toNat ≤ i → i < s.ilen.toNat → v.obuf.read i = s.ibuf.read i)

/- ---- Rules over all commands (44_control, 60_exceptions, 10_state) ---- -/

/-- R231, R45, R46: every command, in every state, completes: DONE = 1, PEND empty, and ERR is 1 with a code of 1 to 16 or
0 with code 0. -/
def Obligations.EveryCommandCompletes : Prop :=
  ∀ (i : Instr) (s : State), ∃ t, exec i s = .next t ∧ t.done = true ∧ busy t = false ∧
    t.errcode ≤ 16#5 ∧ (t.err = true ↔ t.errcode ≠ 0#5) ∧ (t.err = true → t.enc = 0#2 ∧ t.oabsent = false)

/-- R231, R52 to R54, R58, the frame of the host's own registers: no command changes CTRL, STATUS.OVR, ILEN, IFLAGS,
HLEN_IN, or any entry of IBUF. -/
def Obligations.NoCommandWritesTheHostsRegisters : Prop :=
  ∀ (i : Instr) (s t : State), exec i s = .next t →
    t.irqEn = s.irqEn ∧ t.ovr = s.ovr ∧ t.ilen = s.ilen ∧ t.iabsent = s.iabsent ∧ t.hlenIn = s.hlenIn ∧
    (∀ a, t.ibuf.read a = s.ibuf.read a) ∧ t.turns = s.turns ∧ t.rdata = s.rdata

/-- R50, R51, R55 to R57, R59, the frame of the result registers: each is written by its own commands only. -/
def Obligations.EachResultHasItsWriters : Prop :=
  ∀ (i : Instr) (s t : State), exec i s = .next t →
    (t.chk ≠ s.chk → i = .chkInit ∨ (∃ v, i = .chkStep v) ∨ i = .chkHrp ∨ i = .chkData) ∧
    (t.csum ≠ s.csum → ∃ k, i = .chkFinal k) ∧
    (t.result ≠ s.result → i = .validate ∨ (∃ c, i = .mapDec c) ∨ (∃ v, i = .mapEnc v)) ∧
    ((∃ a, t.obuf.read a ≠ s.obuf.read a) ∨ t.olen ≠ s.olen ∨ t.hlenOut ≠ s.hlenOut →
      i = .strip ∨ (∃ k, i = .encode k) ∨ i = .decode)

/-- R243: what an erroring command leaves: the STATUS fields, OLEN and HLEN_OUT cleared after STRIP, ENCODE and DECODE, and
nothing else changed; an illegal word's completion clears neither. -/
def Obligations.ErrorLeavesOnlyStatus : Prop :=
  (∀ (i : Instr) (s t : State), exec i s = .next t → t.err = true →
    ((i = .strip ∨ (∃ k, i = .encode k) ∨ i = .decode) → t = doneErr (outputCleared s) t.errcode) ∧
    (¬(i = .strip ∨ (∃ k, i = .encode k) ∨ i = .decode) → t = doneErr s t.errcode)) ∧
  (∀ s : State, completeIllegal s = .next (doneErr s 14#5))

/-- R49: OABSENT is 1 exactly when the completed command was a STRIP whose input was absent; an illegal word's completion
writes 0. -/
def Obligations.AbsentFlagOnlyAfterStrip : Prop :=
  (∀ (i : Instr) (s t : State), exec i s = .next t → (t.oabsent = true ↔ i = .strip ∧ s.iabsent = true)) ∧
  (∀ s t : State, completeIllegal s = .next t → t.oabsent = false)

/-- R48: ENC is written by every completion, is never 3, and is a tag only after CHK_VERIFY, ENCODE or DECODE. -/
def Obligations.TagOnlyAfterVerifyingCommands : Prop :=
  ∀ (i : Instr) (s t : State), exec i s = .next t →
    t.enc ≠ 3#2 ∧ (t.enc ≠ 0#2 → t.err = false ∧ (i = .chkVerify ∨ (∃ k, i = .encode k) ∨ i = .decode)) ∧
    (t.err = false → (i = .chkVerify ∨ (∃ k, i = .encode k) ∨ i = .decode) → t.enc ≠ 0#2)

/-- R87, R206: no command depends on an entry of IBUF at ILEN or above, nor on any entry when the input is absent: with
those changed at will, it does the same and leaves them as they are. -/
def Obligations.EntriesBeyondTheInputAreNotRead : Prop :=
  ∀ (i : Instr) (s t : State) (m : Memory), exec i s = .next t →
    (s.iabsent = true ∨ ∀ a, a < s.ilen.toNat → m.read a = s.ibuf.read a) →
    exec i { s with ibuf := m } = .next { t with ibuf := m }

/-- D24, R61: NOP, VALIDATE, MAP_DEC, MAP_ENC, STRIP, ENCODE and DECODE neither read nor write CHK or CSUM. -/
def Obligations.CodecCommandsIgnoreTheAccumulator : Prop :=
  ∀ (i : Instr) (s t : State) (c d : Chk), exec i s = .next t →
    i ≠ .chkInit → (∀ v, i ≠ .chkStep v) → i ≠ .chkHrp → i ≠ .chkData → (∀ k, i ≠ .chkFinal k) → i ≠ .chkVerify →
    exec i { s with chk := c, csum := d } = .next { t with chk := c, csum := d }

/- ---- The step, the window and reset (44_control, 20_memory, 70_reset_and_hazards) ---- -/

/-- R232: with a legal word pending, the engine's turn runs that command, on the state with the turn taken. The engine's
turn comes when it is listed first, or when none is listed. -/
def Obligations.StepRunsThePendingCommand : Prop :=
  ∀ (s : State) (w : Word) (i : Instr), s.pend = some w → (s.turns = [] ∨ ∃ rest, s.turns = .engine :: rest) →
    decodeCmd w = .ok i → step s = exec i { s with turns := s.turns.tail }

/-- R107, R244: a pending word that matches no row completes with IllegalCommand, and only STATUS changes. -/
def Obligations.IllegalWordCompletesWithIllegalCommand : Prop :=
  ∀ (s : State) (w : Word), s.pend = some w → (s.turns = [] ∨ ∃ rest, s.turns = .engine :: rest) →
    legalWord w = false → step s = .next (doneErr { s with turns := s.turns.tail } 14#5)

/-- A word placed where the engine takes its next command is the one the very next step runs, whatever turns are listed
(log 10): for every instruction's own word, and for an illegal word IllegalCommand. -/
def Obligations.PlacedWordRunsNext : Prop :=
  ∀ (s : State) (w : Word),
    (∀ i, decodeCmd w = .ok i → step (s.withFetchWord 32 w.toNat) = exec i { s with pend := some w, done := false }) ∧
    (legalWord w = false → step (s.withFetchWord 32 w.toNat) = .next (doneErr s 14#5))

/-- R257, R283: with PEND empty and no host action to come, all state is held. -/
def Obligations.IdleMachineHoldsItsState : Prop :=
  ∀ s : State, s.pend = none → s.turns = [] → step s = .next s

/-- R80, R285, a host write that reaches the window, in every state: the cases of MemWrite in its order, offset by offset. -/
def Obligations.WindowWriteByOffset : Prop :=
  ∀ (s : State) (off : Nat) (v : Word), off < 0x1000 → off % 4 = 0 →
    memWrite s (Config.base + off) 4 v = some (
      if off = 0x004 then
        (if v.getLsbD 0 = true then { State.reset with turns := s.turns, rdata := s.rdata }
         else { s with irqEn := v.getLsbD 1 })
      else if busy s = true then { s with ovr := true }
      else if off = 0x008 then { s with pend := some v, done := false }
      else if off = 0x00C then
        { s with done := if v.getLsbD 1 = true then false else s.done, ovr := if v.getLsbD 3 = true then false else s.ovr }
      else if off = 0x010 then { s with chk := v.setWidth 30 }
      else if off = 0x018 then { s with ilen := v.setWidth 16 }
      else if off = 0x01C then { s with iabsent := v.getLsbD 0 }
      else if off = 0x020 then { s with hlenIn := v.setWidth 16 }
      else if 0x200 ≤ off ∧ off < 0x400 then { s with ibuf := s.ibuf.write ((off - 0x200) / 4) (v.setWidth 8) }
      else s)

/-- R39, R40 to R59, R76, R77, a host read that reaches the window, in every state: the word at each offset, over the
numbers, reserved bits and reserved offsets 0. -/
def Obligations.WindowReadByOffset : Prop :=
  ∀ (s : State) (off : Nat), off < 0x1000 → off % 4 = 0 →
    (memRead s (Config.base + off) 4).map BitVec.toNat = some (
      if off = 0x000 then 0x42333201
      else if off = 0x004 then 2 * s.irqEn.toNat
      else if off = 0x00C then
        (busy s).toNat + 2 * s.done.toNat + 4 * s.err.toNat + 8 * s.ovr.toNat + 16 * s.errcode.toNat +
          512 * s.enc.toNat + 2048 * s.oabsent.toNat
      else if off = 0x010 then s.chk.toNat
      else if off = 0x014 then s.csum.toNat
      else if off = 0x018 then s.ilen.toNat
      else if off = 0x01C then s.iabsent.toNat
      else if off = 0x020 then s.hlenIn.toNat
      else if off = 0x024 then s.hlenOut.toNat
      else if off = 0x028 then s.olen.toNat
      else if off = 0x02C then s.result.toNat
      else if 0x200 ≤ off ∧ off < 0x400 then (s.ibuf.read ((off - 0x200) / 4)).toNat
      else if 0x400 ≤ off ∧ off < 0x600 then (s.obuf.read ((off - 0x400) / 4)).toNat
      else 0)

/-- R58: a word written to an entry of IBUF while BUSY = 0 reads back as its low 8 bits, and every other entry of both
buffers reads as before. -/
def Obligations.InputEntryReadsBack : Prop :=
  ∀ (s : State) (i : Nat) (v : Word), s.ibuf.wf = true → busy s = false → i < 128 →
    ∃ t, memWrite s (Config.base + 0x200 + 4 * i) 4 v = some t ∧
      memRead t (Config.base + 0x200 + 4 * i) 4 = some ((v.extractLsb' 0 8).setWidth 32) ∧
      (∀ j, j < 128 → j ≠ i → memRead t (Config.base + 0x200 + 4 * j) 4 = memRead s (Config.base + 0x200 + 4 * j) 4) ∧
      (∀ j, j < 128 → memRead t (Config.base + 0x400 + 4 * j) 4 = memRead s (Config.base + 0x400 + 4 * j) 4)

/-- R74, R80, R246: a host's read or write is a bus error exactly when it is no aligned 32-bit word of the window, and
nothing but a host's access ever stops the machine. -/
def Obligations.OnlyMalformedAccessesFault : Prop :=
  (∀ (s : State) (addr size : Nat) (v : Word),
    (memRead s addr size = none ↔
      ¬(size = 4 ∧ Config.base ≤ addr ∧ addr < Config.base + 0x1000 ∧ (addr - Config.base) % 4 = 0)) ∧
    (memWrite s addr size v = none ↔ memRead s addr size = none)) ∧
  (∀ s : State, (∀ t, step s ≠ .next t) → step s = .fault .busError ∧
    ∃ a rest, s.turns = .host a :: rest ∧ a.correct = false) ∧
  (∀ (s : State) (a : HostAction) (rest : List Turn), s.turns = .host a :: rest → a.correct = false →
    step s = .fault .busError)

/-- R78, R80: a read turn inside the window answers the word and changes nothing of the block, however often. -/
def Obligations.ReadTurnChangesNothing : Prop :=
  ∀ (s : State) (off : Nat) (rest : List Turn), off < 0x1000 → off % 4 = 0 →
    s.turns = .host (.read (Config.base + off) 4) :: rest →
    ∃ w, memRead s (Config.base + off) 4 = some w ∧ step s = .next { s with turns := rest, rdata := w } ∧
      memRead { s with turns := rest, rdata := w } (Config.base + off) 4 = some w

/-- R286: between issue and completion every register and entry but STATUS reads as before the issue, and STATUS reads as
before but for BUSY = 1 and DONE = 0. -/
def Obligations.PendingCommandShowsOldValues : Prop :=
  ∀ (s : State) (w : Word), busy s = false →
    (∀ off, off < 0x1000 → off % 4 = 0 → off ≠ 0x00C →
      memRead (issue w s) (Config.base + off) 4 = memRead s (Config.base + off) 4) ∧
    statusWord (issue w s) = (statusWord s &&& 0xFFFFFFFD#32) ||| 0x00000001#32

/-- R82, R285, R287: while a command is pending, a host write other than to CTRL sets OVR and cannot change what the
command does. -/
def Obligations.DroppedWriteCannotChangeTheResult : Prop :=
  ∀ (i : Instr) (s t : State) (off : Nat) (v : Word), busy s = true → off < 0x1000 → off % 4 = 0 → off ≠ 0x004 →
    exec i s = .next t →
    ∃ s', memWrite s (Config.base + off) 4 v = some s' ∧ exec i s' = .next { t with ovr := true }

/-- R247, R248: IRQ is masked by IRQ_EN = 0 and pending while DONE = 1: every completion raises it where
IRQ_EN = 1 and none does where it is 0; issuing, acknowledging and reset lower it; setting IRQ_EN while DONE = 1 raises it at once. -/
def Obligations.InterruptFollowsDone : Prop :=
  (∀ s : State, (s.irqEn = false → irq s = false) ∧ (s.irqEn = true → irq s = s.done)) ∧
  (∀ (i : Instr) (s t : State), exec i s = .next t → irq t = s.irqEn) ∧
  (∀ (s : State) (w : Word), irq (issue w s) = false) ∧
  (∀ (s t : State) (v : Word), busy s = false → v.getLsbD 1 = true →
    memWrite s (Config.base + 0x00C) 4 v = some t → irq t = false) ∧
  (∀ s : State, irq (resetBlock s) = false) ∧
  (∀ s : State, s.done = true → ∃ t, memWrite s (Config.base + 0x004) 4 0x2#32 = some t ∧ irq t = true)

/-- R280 to R282: RST_N and an SRST write do the same, in every state, a pending command abandoned: the block is at its
reset values, CHK = 1 and the rest 0, PEND empty and no completion. -/
def Obligations.BothResetsAreTheSame : Prop :=
  ∀ (s : State) (rest : List Turn) (v : Word), v.getLsbD 0 = true →
    step { s with turns := .host .resetPin :: rest } = .next { State.reset with turns := rest, rdata := s.rdata } ∧
    step { s with turns := .host (.write (Config.base + 0x004) 4 v) :: rest } =
      .next { State.reset with turns := rest, rdata := s.rdata }

/-- R281: every word of the window after reset: ID and CHK as given, every other word 0. -/
def Obligations.ResetValuesOfTheWindow : Prop :=
  (∀ off, off < 0x1000 → off % 4 = 0 → memRead State.reset (Config.base + off) 4 =
    some (if off = 0x000 then 0x42333201#32 else if off = 0x010 then 0x00000001#32 else 0x00000000#32)) ∧
  State.reset.pend = none ∧ irq State.reset = false

/-- R45 to R49, R56: the invariant holds after reset. -/
def Obligations.InvariantHoldsAtReset : Prop := Inv State.reset

/-- R45 to R49, R55, R56, R58, R59: every step of the engine and of the host, from every state with the invariant, keeps
it: legal error codes and tags, no DONE while BUSY, an output that fits, canonical buffers. -/
def Obligations.EveryStepKeepsTheInvariant : Prop :=
  ∀ s t : State, Inv s → step s = .next t → Inv t

/-- R246, over whole runs: from any state whose coming host accesses are aligned words of the window, every number of steps
ends in a next state, and in one where that, and the invariant, still hold. -/
def Obligations.CorrectRunNeverFaults : Prop :=
  ∀ (k : Nat) (s : State), Inv s → hostCorrect s = true →
    ∃ t, run k s = .next t ∧ Inv t ∧ hostCorrect t = true

/-- R110, R232, R288: WAIT ends: with it next, a pending command is completed and the host's last read of STATUS, BUSY = 0 in
it, is made within three steps; with none pending, in one. The number of polls is the model's choice (log 4). -/
def Obligations.WaitEnds : Prop :=
  ∀ (s : State) (rest : List Turn), s.turns = .host .wait :: rest →
    ∃ t, run (if busy s = true then 3 else 1) s = .next t ∧ busy t = false ∧ t.turns = rest ∧
      t.rdata = statusWord t ∧ t.rdata.getLsbD 0 = false

/-- R112, R230 to R232: `RUN X` on an idle machine is X's own effect, for every command: the word is written, issued, decoded
and run, and the host has seen BUSY = 0. The number of steps, 4, is the model's schedule of WAIT (log 4). -/
def Obligations.RunScriptIsTheCommand : Prop :=
  ∀ (i : Instr) (s : State) (rest : List Turn), busy s = false →
    ∃ t, exec i { s with turns := rest } = .next t ∧
      run 4 { s with turns := scriptRun i ++ rest } = .next { t with rdata := statusWord t }

/-- R112: `LOAD text` on an idle machine, for a text that fits IBUF, makes the text the input of the next command: present,
ILEN its length, IBUF its codes; nothing else but IBUF, ILEN and IFLAGS changes. -/
def Obligations.LoadScriptPresentsTheText : Prop :=
  ∀ (s : State) (text : List Byte) (rest : List Turn), s.ibuf.wf = true → busy s = false → text.length ≤ 128 →
    ∃ t, run (text.length + 2) { s with turns := scriptLoad text ++ rest } = .next t ∧
      t = { s with ibuf := t.ibuf, ilen := BitVec.ofNat 16 text.length, iabsent := false, turns := rest } ∧
      inputSeq t = text ∧ (∀ i, text.length ≤ i → t.ibuf.read i = s.ibuf.read i)

/-- R58, R59: the canonical form: two buffers in it that read the same everywhere are the same. -/
def Obligations.CanonicalBuffersAreEqualWhenTheyReadEqual : Prop :=
  ∀ m₁ m₂ : Memory, m₁.wf = true → m₂.wf = true → (∀ i, m₁.read i = m₂.read i) → m₁ = m₂
end

