-- ==== Sys2Proof/Laws/State.lean ====
section
/-! SUPPORT. One lemma per field per named update of the state, each true by unfolding; later proofs cite these and unfold no record update. -/

namespace Sys2Proof.Machine

section
variable (e : Option Variant) (a : Bool) (s : State)
@[simp] theorem completeOk_irqEn : (completeOk e a s).irqEn = s.irqEn := rfl
@[simp] theorem completeOk_done : (completeOk e a s).done = true := rfl
@[simp] theorem completeOk_err : (completeOk e a s).err = false := rfl
@[simp] theorem completeOk_ovr : (completeOk e a s).ovr = s.ovr := rfl
@[simp] theorem completeOk_errcode : (completeOk e a s).errcode = 0#5 := rfl
@[simp] theorem completeOk_enc : (completeOk e a s).enc = encCode e := rfl
@[simp] theorem completeOk_oabsent : (completeOk e a s).oabsent = a := rfl
@[simp] theorem completeOk_chk : (completeOk e a s).chk = s.chk := rfl
@[simp] theorem completeOk_csum : (completeOk e a s).csum = s.csum := rfl
@[simp] theorem completeOk_ilen : (completeOk e a s).ilen = s.ilen := rfl
@[simp] theorem completeOk_iabsent : (completeOk e a s).iabsent = s.iabsent := rfl
@[simp] theorem completeOk_hlenIn : (completeOk e a s).hlenIn = s.hlenIn := rfl
@[simp] theorem completeOk_hlenOut : (completeOk e a s).hlenOut = s.hlenOut := rfl
@[simp] theorem completeOk_olen : (completeOk e a s).olen = s.olen := rfl
@[simp] theorem completeOk_result : (completeOk e a s).result = s.result := rfl
@[simp] theorem completeOk_ibuf : (completeOk e a s).ibuf = s.ibuf := rfl
@[simp] theorem completeOk_obuf : (completeOk e a s).obuf = s.obuf := rfl
@[simp] theorem completeOk_pend : (completeOk e a s).pend = none := rfl
@[simp] theorem completeOk_turns : (completeOk e a s).turns = s.turns := rfl
@[simp] theorem completeOk_rdata : (completeOk e a s).rdata = s.rdata := rfl
end

section
variable (e : ErrKind) (s : State)
@[simp] theorem completeErr_irqEn : (completeErr e s).irqEn = s.irqEn := rfl
@[simp] theorem completeErr_done : (completeErr e s).done = true := rfl
@[simp] theorem completeErr_err : (completeErr e s).err = true := rfl
@[simp] theorem completeErr_ovr : (completeErr e s).ovr = s.ovr := rfl
@[simp] theorem completeErr_errcode : (completeErr e s).errcode = errCode e := rfl
@[simp] theorem completeErr_enc : (completeErr e s).enc = 0#2 := rfl
@[simp] theorem completeErr_oabsent : (completeErr e s).oabsent = false := rfl
@[simp] theorem completeErr_chk : (completeErr e s).chk = s.chk := rfl
@[simp] theorem completeErr_csum : (completeErr e s).csum = s.csum := rfl
@[simp] theorem completeErr_ilen : (completeErr e s).ilen = s.ilen := rfl
@[simp] theorem completeErr_iabsent : (completeErr e s).iabsent = s.iabsent := rfl
@[simp] theorem completeErr_hlenIn : (completeErr e s).hlenIn = s.hlenIn := rfl
@[simp] theorem completeErr_hlenOut : (completeErr e s).hlenOut = s.hlenOut := rfl
@[simp] theorem completeErr_olen : (completeErr e s).olen = s.olen := rfl
@[simp] theorem completeErr_result : (completeErr e s).result = s.result := rfl
@[simp] theorem completeErr_ibuf : (completeErr e s).ibuf = s.ibuf := rfl
@[simp] theorem completeErr_obuf : (completeErr e s).obuf = s.obuf := rfl
@[simp] theorem completeErr_pend : (completeErr e s).pend = none := rfl
@[simp] theorem completeErr_turns : (completeErr e s).turns = s.turns := rfl
@[simp] theorem completeErr_rdata : (completeErr e s).rdata = s.rdata := rfl
end

section
variable (s : State)
@[simp] theorem clearOutput_irqEn : (clearOutput s).irqEn = s.irqEn := rfl
@[simp] theorem clearOutput_done : (clearOutput s).done = s.done := rfl
@[simp] theorem clearOutput_err : (clearOutput s).err = s.err := rfl
@[simp] theorem clearOutput_ovr : (clearOutput s).ovr = s.ovr := rfl
@[simp] theorem clearOutput_errcode : (clearOutput s).errcode = s.errcode := rfl
@[simp] theorem clearOutput_enc : (clearOutput s).enc = s.enc := rfl
@[simp] theorem clearOutput_oabsent : (clearOutput s).oabsent = s.oabsent := rfl
@[simp] theorem clearOutput_chk : (clearOutput s).chk = s.chk := rfl
@[simp] theorem clearOutput_csum : (clearOutput s).csum = s.csum := rfl
@[simp] theorem clearOutput_ilen : (clearOutput s).ilen = s.ilen := rfl
@[simp] theorem clearOutput_iabsent : (clearOutput s).iabsent = s.iabsent := rfl
@[simp] theorem clearOutput_hlenIn : (clearOutput s).hlenIn = s.hlenIn := rfl
@[simp] theorem clearOutput_hlenOut : (clearOutput s).hlenOut = 0#16 := rfl
@[simp] theorem clearOutput_olen : (clearOutput s).olen = 0#16 := rfl
@[simp] theorem clearOutput_result : (clearOutput s).result = s.result := rfl
@[simp] theorem clearOutput_ibuf : (clearOutput s).ibuf = s.ibuf := rfl
@[simp] theorem clearOutput_obuf : (clearOutput s).obuf = s.obuf := rfl
@[simp] theorem clearOutput_pend : (clearOutput s).pend = s.pend := rfl
@[simp] theorem clearOutput_turns : (clearOutput s).turns = s.turns := rfl
@[simp] theorem clearOutput_rdata : (clearOutput s).rdata = s.rdata := rfl
end

section
variable (w : Word) (s : State)
@[simp] theorem issue_irqEn : (issue w s).irqEn = s.irqEn := rfl
@[simp] theorem issue_done : (issue w s).done = false := rfl
@[simp] theorem issue_err : (issue w s).err = s.err := rfl
@[simp] theorem issue_ovr : (issue w s).ovr = s.ovr := rfl
@[simp] theorem issue_errcode : (issue w s).errcode = s.errcode := rfl
@[simp] theorem issue_enc : (issue w s).enc = s.enc := rfl
@[simp] theorem issue_oabsent : (issue w s).oabsent = s.oabsent := rfl
@[simp] theorem issue_chk : (issue w s).chk = s.chk := rfl
@[simp] theorem issue_csum : (issue w s).csum = s.csum := rfl
@[simp] theorem issue_ilen : (issue w s).ilen = s.ilen := rfl
@[simp] theorem issue_iabsent : (issue w s).iabsent = s.iabsent := rfl
@[simp] theorem issue_hlenIn : (issue w s).hlenIn = s.hlenIn := rfl
@[simp] theorem issue_hlenOut : (issue w s).hlenOut = s.hlenOut := rfl
@[simp] theorem issue_olen : (issue w s).olen = s.olen := rfl
@[simp] theorem issue_result : (issue w s).result = s.result := rfl
@[simp] theorem issue_ibuf : (issue w s).ibuf = s.ibuf := rfl
@[simp] theorem issue_obuf : (issue w s).obuf = s.obuf := rfl
@[simp] theorem issue_pend : (issue w s).pend = some w := rfl
@[simp] theorem issue_turns : (issue w s).turns = s.turns := rfl
@[simp] theorem issue_rdata : (issue w s).rdata = s.rdata := rfl
end

section
variable (out : List Byte) (h : Nat) (s : State)
@[simp] theorem putOutput_irqEn : (putOutput out h s).irqEn = s.irqEn := rfl
@[simp] theorem putOutput_done : (putOutput out h s).done = s.done := rfl
@[simp] theorem putOutput_err : (putOutput out h s).err = s.err := rfl
@[simp] theorem putOutput_ovr : (putOutput out h s).ovr = s.ovr := rfl
@[simp] theorem putOutput_errcode : (putOutput out h s).errcode = s.errcode := rfl
@[simp] theorem putOutput_enc : (putOutput out h s).enc = s.enc := rfl
@[simp] theorem putOutput_oabsent : (putOutput out h s).oabsent = s.oabsent := rfl
@[simp] theorem putOutput_chk : (putOutput out h s).chk = s.chk := rfl
@[simp] theorem putOutput_csum : (putOutput out h s).csum = s.csum := rfl
@[simp] theorem putOutput_ilen : (putOutput out h s).ilen = s.ilen := rfl
@[simp] theorem putOutput_iabsent : (putOutput out h s).iabsent = s.iabsent := rfl
@[simp] theorem putOutput_hlenIn : (putOutput out h s).hlenIn = s.hlenIn := rfl
@[simp] theorem putOutput_hlenOut : (putOutput out h s).hlenOut = BitVec.ofNat 16 h := rfl
@[simp] theorem putOutput_olen : (putOutput out h s).olen = BitVec.ofNat 16 out.length := rfl
@[simp] theorem putOutput_result : (putOutput out h s).result = s.result := rfl
@[simp] theorem putOutput_ibuf : (putOutput out h s).ibuf = s.ibuf := rfl
@[simp] theorem putOutput_obuf : (putOutput out h s).obuf = s.obuf.writeFrom 0 out := rfl
@[simp] theorem putOutput_pend : (putOutput out h s).pend = s.pend := rfl
@[simp] theorem putOutput_turns : (putOutput out h s).turns = s.turns := rfl
@[simp] theorem putOutput_rdata : (putOutput out h s).rdata = s.rdata := rfl
end

section
variable (s : State)
@[simp] theorem popTurn_irqEn : (popTurn s).irqEn = s.irqEn := rfl
@[simp] theorem popTurn_done : (popTurn s).done = s.done := rfl
@[simp] theorem popTurn_err : (popTurn s).err = s.err := rfl
@[simp] theorem popTurn_ovr : (popTurn s).ovr = s.ovr := rfl
@[simp] theorem popTurn_errcode : (popTurn s).errcode = s.errcode := rfl
@[simp] theorem popTurn_enc : (popTurn s).enc = s.enc := rfl
@[simp] theorem popTurn_oabsent : (popTurn s).oabsent = s.oabsent := rfl
@[simp] theorem popTurn_chk : (popTurn s).chk = s.chk := rfl
@[simp] theorem popTurn_csum : (popTurn s).csum = s.csum := rfl
@[simp] theorem popTurn_ilen : (popTurn s).ilen = s.ilen := rfl
@[simp] theorem popTurn_iabsent : (popTurn s).iabsent = s.iabsent := rfl
@[simp] theorem popTurn_hlenIn : (popTurn s).hlenIn = s.hlenIn := rfl
@[simp] theorem popTurn_hlenOut : (popTurn s).hlenOut = s.hlenOut := rfl
@[simp] theorem popTurn_olen : (popTurn s).olen = s.olen := rfl
@[simp] theorem popTurn_result : (popTurn s).result = s.result := rfl
@[simp] theorem popTurn_ibuf : (popTurn s).ibuf = s.ibuf := rfl
@[simp] theorem popTurn_obuf : (popTurn s).obuf = s.obuf := rfl
@[simp] theorem popTurn_pend : (popTurn s).pend = s.pend := rfl
@[simp] theorem popTurn_turns : (popTurn s).turns = s.turns.tail := rfl
@[simp] theorem popTurn_rdata : (popTurn s).rdata = s.rdata := rfl
end

section
variable (s : State)
@[simp] theorem dropWrite_irqEn : (dropWrite s).irqEn = s.irqEn := rfl
@[simp] theorem dropWrite_done : (dropWrite s).done = s.done := rfl
@[simp] theorem dropWrite_err : (dropWrite s).err = s.err := rfl
@[simp] theorem dropWrite_ovr : (dropWrite s).ovr = true := rfl
@[simp] theorem dropWrite_errcode : (dropWrite s).errcode = s.errcode := rfl
@[simp] theorem dropWrite_enc : (dropWrite s).enc = s.enc := rfl
@[simp] theorem dropWrite_oabsent : (dropWrite s).oabsent = s.oabsent := rfl
@[simp] theorem dropWrite_chk : (dropWrite s).chk = s.chk := rfl
@[simp] theorem dropWrite_csum : (dropWrite s).csum = s.csum := rfl
@[simp] theorem dropWrite_ilen : (dropWrite s).ilen = s.ilen := rfl
@[simp] theorem dropWrite_iabsent : (dropWrite s).iabsent = s.iabsent := rfl
@[simp] theorem dropWrite_hlenIn : (dropWrite s).hlenIn = s.hlenIn := rfl
@[simp] theorem dropWrite_hlenOut : (dropWrite s).hlenOut = s.hlenOut := rfl
@[simp] theorem dropWrite_olen : (dropWrite s).olen = s.olen := rfl
@[simp] theorem dropWrite_result : (dropWrite s).result = s.result := rfl
@[simp] theorem dropWrite_ibuf : (dropWrite s).ibuf = s.ibuf := rfl
@[simp] theorem dropWrite_obuf : (dropWrite s).obuf = s.obuf := rfl
@[simp] theorem dropWrite_pend : (dropWrite s).pend = s.pend := rfl
@[simp] theorem dropWrite_turns : (dropWrite s).turns = s.turns := rfl
@[simp] theorem dropWrite_rdata : (dropWrite s).rdata = s.rdata := rfl
end

section
variable (v : Word) (s : State)
@[simp] theorem writeStatus_irqEn : (writeStatus v s).irqEn = s.irqEn := rfl
@[simp] theorem writeStatus_done : (writeStatus v s).done = (s.done && !v.getLsbD 1) := rfl
@[simp] theorem writeStatus_err : (writeStatus v s).err = s.err := rfl
@[simp] theorem writeStatus_ovr : (writeStatus v s).ovr = (s.ovr && !v.getLsbD 3) := rfl
@[simp] theorem writeStatus_errcode : (writeStatus v s).errcode = s.errcode := rfl
@[simp] theorem writeStatus_enc : (writeStatus v s).enc = s.enc := rfl
@[simp] theorem writeStatus_oabsent : (writeStatus v s).oabsent = s.oabsent := rfl
@[simp] theorem writeStatus_chk : (writeStatus v s).chk = s.chk := rfl
@[simp] theorem writeStatus_csum : (writeStatus v s).csum = s.csum := rfl
@[simp] theorem writeStatus_ilen : (writeStatus v s).ilen = s.ilen := rfl
@[simp] theorem writeStatus_iabsent : (writeStatus v s).iabsent = s.iabsent := rfl
@[simp] theorem writeStatus_hlenIn : (writeStatus v s).hlenIn = s.hlenIn := rfl
@[simp] theorem writeStatus_hlenOut : (writeStatus v s).hlenOut = s.hlenOut := rfl
@[simp] theorem writeStatus_olen : (writeStatus v s).olen = s.olen := rfl
@[simp] theorem writeStatus_result : (writeStatus v s).result = s.result := rfl
@[simp] theorem writeStatus_ibuf : (writeStatus v s).ibuf = s.ibuf := rfl
@[simp] theorem writeStatus_obuf : (writeStatus v s).obuf = s.obuf := rfl
@[simp] theorem writeStatus_pend : (writeStatus v s).pend = s.pend := rfl
@[simp] theorem writeStatus_turns : (writeStatus v s).turns = s.turns := rfl
@[simp] theorem writeStatus_rdata : (writeStatus v s).rdata = s.rdata := rfl
end

section
variable (s : State)
@[simp] theorem resetBlock_irqEn : (resetBlock s).irqEn = State.reset.irqEn := rfl
@[simp] theorem resetBlock_done : (resetBlock s).done = State.reset.done := rfl
@[simp] theorem resetBlock_err : (resetBlock s).err = State.reset.err := rfl
@[simp] theorem resetBlock_ovr : (resetBlock s).ovr = State.reset.ovr := rfl
@[simp] theorem resetBlock_errcode : (resetBlock s).errcode = State.reset.errcode := rfl
@[simp] theorem resetBlock_enc : (resetBlock s).enc = State.reset.enc := rfl
@[simp] theorem resetBlock_oabsent : (resetBlock s).oabsent = State.reset.oabsent := rfl
@[simp] theorem resetBlock_chk : (resetBlock s).chk = State.reset.chk := rfl
@[simp] theorem resetBlock_csum : (resetBlock s).csum = State.reset.csum := rfl
@[simp] theorem resetBlock_ilen : (resetBlock s).ilen = State.reset.ilen := rfl
@[simp] theorem resetBlock_iabsent : (resetBlock s).iabsent = State.reset.iabsent := rfl
@[simp] theorem resetBlock_hlenIn : (resetBlock s).hlenIn = State.reset.hlenIn := rfl
@[simp] theorem resetBlock_hlenOut : (resetBlock s).hlenOut = State.reset.hlenOut := rfl
@[simp] theorem resetBlock_olen : (resetBlock s).olen = State.reset.olen := rfl
@[simp] theorem resetBlock_result : (resetBlock s).result = State.reset.result := rfl
@[simp] theorem resetBlock_ibuf : (resetBlock s).ibuf = State.reset.ibuf := rfl
@[simp] theorem resetBlock_obuf : (resetBlock s).obuf = State.reset.obuf := rfl
@[simp] theorem resetBlock_pend : (resetBlock s).pend = State.reset.pend := rfl
@[simp] theorem resetBlock_turns : (resetBlock s).turns = s.turns := rfl
@[simp] theorem resetBlock_rdata : (resetBlock s).rdata = s.rdata := rfl
end

/-- Completion of a body that finishes (44_control R231). -/
@[simp] theorem complete_ok (c : Bool) (s : State) (f : Finish) : complete c s (.ok f) = completeOk f.enc f.absent f.staged := rfl

/-- Completion of a body that raises (44_control R231). -/
@[simp] theorem complete_error (c : Bool) (s : State) (e : ErrKind) :
    complete c s (.error e) = completeErr e (if c then clearOutput s else s) := rfl

@[simp] theorem complete_finish (c : Bool) (s t : State) (k : Option Variant) :
    complete c s (finish t k) = completeOk k false t := rfl

@[simp] theorem complete_finishAbsent (c : Bool) (s t : State) (k : Option Variant) :
    complete c s (finishAbsent t k) = completeOk k true t := rfl

@[simp] theorem busy_completeOk (e : Option Variant) (a : Bool) (s : State) : busy (completeOk e a s) = false := rfl

@[simp] theorem busy_completeErr (e : ErrKind) (s : State) : busy (completeErr e s) = false := rfl

@[simp] theorem busy_issue (w : Word) (s : State) : busy (issue w s) = true := rfl

/-- BUSY is 0 exactly when PEND is empty (10_state R44, R60). -/
theorem busy_eq_false {s : State} : busy s = false ↔ s.pend = none := by
  unfold busy; cases s.pend <;> simp

theorem busy_eq_true {s : State} : busy s = true ↔ ∃ w, s.pend = some w := by
  unfold busy; cases s.pend <;> simp

/-- No code of 60_exceptions R241 is 0, and none is above 16. -/
theorem errCode_range (e : ErrKind) : errCode e ≠ 0#5 ∧ errCode e ≤ 16#5 := by cases e <;> decide

/-- The codes tell the kinds apart (60_exceptions R241). -/
theorem errCode_injective {e f : ErrKind} (h : errCode e = errCode f) : e = f := by
  cases e <;> cases f <;> first | rfl | (exact absurd h (by decide))

/-- ENC = 3 is never written (10_state R48). -/
theorem encCode_ne_three (k : Option Variant) : encCode k ≠ 3#2 := by
  rcases k with _ | k
  · decide
  · cases k <;> decide

end Sys2Proof.Machine
end

