-- ==== Sys2Proof/Laws/Commands.lean ====
section
/-! SUPPORT. What a command can do, said once: `exec` is one completion of one body, a body that finishes says what it staged, and a step is one of three things. Later proofs cite these and unfold no body. -/

namespace Sys2Proof.Machine

/-- The body of a command, as `exec` runs it. -/
def bodyOf (i : Instr) (s : State) : Body :=
  match i with
  | .nop          => finish s none
  | .validate     => validateBody s
  | .mapDec arg   => mapDecBody arg s
  | .mapEnc arg   => mapEncBody arg s
  | .strip        => stripBody s
  | .chkInit      => chkInitBody s
  | .chkStep arg  => chkStepBody arg s
  | .chkHrp       => chkHrpBody s
  | .chkData      => chkDataBody s
  | .chkFinal sel => chkFinalBody sel s
  | .chkVerify    => chkVerifyBody s
  | .encode sel   => encodeBody sel s
  | .decode       => decodeBody s

/-- The commands whose error clears OLEN and HLEN_OUT (44_control R231). -/
def clearsOutput : Instr → Bool
  | .strip | .encode _ | .decode => true
  | .nop | .validate | .mapDec _ | .mapEnc _ | .chkInit | .chkStep _ | .chkHrp | .chkData | .chkFinal _ | .chkVerify => false

/-- Every command is one completion of its body. -/
theorem exec_eq_next (i : Instr) (s : State) : exec i s = .next (complete (clearsOutput i) s (bodyOf i s)) := by
  cases i <;> rfl

/-- The state a command ends in. -/
theorem exec_next_iff {i : Instr} {s t : State} :
    exec i s = .next t ↔ t = complete (clearsOutput i) s (bodyOf i s) := by
  rw [exec_eq_next]
  constructor
  · intro h; injection h with h; exact h.symm
  · rintro rfl; rfl

theorem finish_eq_ok {s : State} {k : Option Variant} {f : Finish} : finish s k = .ok f ↔ f = ⟨s, k, false⟩ := by
  unfold finish
  exact ⟨fun h => by injection h with h; exact h.symm, fun h => by rw [h]⟩

theorem finishAbsent_eq_ok {s : State} {k : Option Variant} {f : Finish} :
    finishAbsent s k = .ok f ↔ f = ⟨s, k, true⟩ := by
  unfold finishAbsent
  exact ⟨fun h => by injection h with h; exact h.symm, fun h => by rw [h]⟩

section Bodies
variable {s : State} {f : Finish}

theorem validateBody_ok (h : validateBody s = .ok f) :
    s.iabsent = false ∧ Config.minLen ≤ inputLen s ∧ inputLen s ≤ Config.maxLen ∧
      ∃ x, structural (inputSeq s) = .ok x ∧ f = ⟨{ s with result := BitVec.ofNat 8 x.sep }, none, false⟩ := by
  unfold validateBody at h
  split at h
  · cases h
  · split at h
    · cases h
    · split at h
      · cases h
      · split at h
        · cases h
        · next ha h1 h2 _ x hx =>
          exact ⟨by simpa using ha, by omega, by omega, x, hx, finish_eq_ok.1 h⟩

theorem mapDecBody_ok {arg : Byte} (h : mapDecBody arg s = .ok f) :
    ∃ v, mapDec arg = .ok v ∧ f = ⟨{ s with result := symByte v }, none, false⟩ := by
  unfold mapDecBody at h
  split at h
  · cases h
  · next v hv => exact ⟨v, hv, finish_eq_ok.1 h⟩

theorem mapEncBody_ok {arg : Byte} (h : mapEncBody arg s = .ok f) :
    ∃ c, mapEnc arg = .ok c ∧ f = ⟨{ s with result := c }, none, false⟩ := by
  unfold mapEncBody at h
  split at h
  · cases h
  · next c hc => exact ⟨c, hc, finish_eq_ok.1 h⟩

theorem stripBody_ok (h : stripBody s = .ok f) :
    (s.iabsent = true ∧ f = ⟨clearOutput s, none, true⟩) ∨
    (s.iabsent = false ∧ inputLen s ≤ Config.ibufCap ∧ f = ⟨putOutput (strip (inputSeq s)) 0 s, none, false⟩) := by
  unfold stripBody at h
  split at h
  · next ha => exact .inl ⟨ha, finishAbsent_eq_ok.1 h⟩
  · split at h
    · cases h
    · next ha hn => exact .inr ⟨by simpa using ha, by omega, finish_eq_ok.1 h⟩

theorem chkStepBody_ok {arg : Byte} (h : chkStepBody arg s = .ok f) :
    ∃ v, asSym arg = .ok v ∧ f = ⟨{ s with chk := polyStep s.chk v }, none, false⟩ := by
  unfold chkStepBody at h
  split at h
  · cases h
  · next v hv => exact ⟨v, hv, finish_eq_ok.1 h⟩

theorem chkHrpBody_ok (h : chkHrpBody s = .ok f) :
    s.iabsent = false ∧ inputLen s ≤ Config.ibufCap ∧
      f = ⟨{ s with chk := foldFrom s.chk (expand (inputSeq s)) }, none, false⟩ := by
  unfold chkHrpBody at h
  split at h
  · cases h
  · split at h
    · cases h
    · next ha hn => exact ⟨by simpa using ha, by omega, finish_eq_ok.1 h⟩

theorem chkDataBody_ok (h : chkDataBody s = .ok f) :
    s.iabsent = false ∧ inputLen s ≤ Config.ibufCap ∧
      ∃ d, asSyms (inputSeq s) = .ok d ∧ f = ⟨{ s with chk := foldFrom s.chk d }, none, false⟩ := by
  unfold chkDataBody at h
  split at h
  · cases h
  · split at h
    · cases h
    · split at h
      · cases h
      · next ha hn _ d hd => exact ⟨by simpa using ha, by omega, d, hd, finish_eq_ok.1 h⟩

theorem chkVerifyBody_ok (h : chkVerifyBody s = .ok f) :
    ∃ k, residueTag s.chk = .ok k ∧ f = ⟨s, some k, false⟩ := by
  unfold chkVerifyBody at h
  split at h
  · cases h
  · next k hk => exact ⟨k, hk, finish_eq_ok.1 h⟩

theorem decodeBody_ok (h : decodeBody s = .ok f) :
    s.iabsent = false ∧ Config.minLen ≤ inputLen s ∧ inputLen s ≤ Config.maxLen ∧
      ∃ x, decodeString (inputSeq s) = .ok x ∧
        f = ⟨putOutput (x.hrp ++ x.payload.map symByte) x.hrp.length s, some x.variant, false⟩ := by
  unfold decodeBody at h
  split at h
  · cases h
  · split at h
    · cases h
    · split at h
      · cases h
      · split at h
        · cases h
        · next ha h1 h2 _ x hx =>
          exact ⟨by simpa using ha, by omega, by omega, x, hx, finish_eq_ok.1 h⟩

theorem encodeBody_ok {sel : Variant} (h : encodeBody sel s = .ok f) :
    s.iabsent = false ∧ s.hlenIn.toNat ≤ inputLen s ∧ inputLen s + 7 ≤ Config.maxLen ∧
      ∃ out, encodeString (inputRange s 0 s.hlenIn.toNat) (inputRange s s.hlenIn.toNat (inputLen s)) sel = .ok out ∧
        f = ⟨putOutput out 0 s, some sel, false⟩ := by
  unfold encodeBody at h
  split at h
  · cases h
  · split at h
    · cases h
    · split at h
      · cases h
      · split at h
        · cases h
        · split at h
          · cases h
          · split at h
            · cases h
            · next ha h1 h2 h3 h4 _ out hout =>
              exact ⟨by simpa using ha, by omega, by omega, out, hout, finish_eq_ok.1 h⟩

/-- A body stages nothing but CHK, CSUM, RESULT, OBUF, OLEN and HLEN_OUT. -/
theorem body_staged {i : Instr} (h : bodyOf i s = .ok f) :
    ∃ chk csum result obuf olen hlenOut,
      f.staged = { s with chk := chk, csum := csum, result := result, obuf := obuf, olen := olen, hlenOut := hlenOut } := by
  cases i with
  | nop => cases finish_eq_ok.1 h; exact ⟨_, _, _, _, _, _, rfl⟩
  | validate => obtain ⟨-, -, -, x, -, rfl⟩ := validateBody_ok h; exact ⟨_, _, _, _, _, _, rfl⟩
  | mapDec arg => obtain ⟨v, -, rfl⟩ := mapDecBody_ok h; exact ⟨_, _, _, _, _, _, rfl⟩
  | mapEnc arg => obtain ⟨v, -, rfl⟩ := mapEncBody_ok h; exact ⟨_, _, _, _, _, _, rfl⟩
  | strip => obtain ⟨-, rfl⟩ | ⟨-, -, rfl⟩ := stripBody_ok h <;> exact ⟨_, _, _, _, _, _, rfl⟩
  | chkInit => cases finish_eq_ok.1 h; exact ⟨_, _, _, _, _, _, rfl⟩
  | chkStep arg => obtain ⟨v, -, rfl⟩ := chkStepBody_ok h; exact ⟨_, _, _, _, _, _, rfl⟩
  | chkHrp => obtain ⟨-, -, rfl⟩ := chkHrpBody_ok h; exact ⟨_, _, _, _, _, _, rfl⟩
  | chkData => obtain ⟨-, -, d, -, rfl⟩ := chkDataBody_ok h; exact ⟨_, _, _, _, _, _, rfl⟩
  | chkFinal sel => cases finish_eq_ok.1 h; exact ⟨_, _, _, _, _, _, rfl⟩
  | chkVerify => obtain ⟨k, -, rfl⟩ := chkVerifyBody_ok h; exact ⟨_, _, _, _, _, _, rfl⟩
  | encode sel => obtain ⟨-, -, -, out, -, rfl⟩ := encodeBody_ok h; exact ⟨_, _, _, _, _, _, rfl⟩
  | decode => obtain ⟨-, -, -, x, -, rfl⟩ := decodeBody_ok h; exact ⟨_, _, _, _, _, _, rfl⟩

end Bodies

/-- What a step can answer: the host's turn, the engine idle, a command run, or an illegal word completed. -/
theorem step_cases (s : State) :
    (∃ a, nextTurn s = .host a ∧ step s = hostTurn (popTurn s) a) ∨
    (nextTurn s = .engine ∧ s.pend = none ∧ step s = .next (popTurn s)) ∨
    (∃ w i, nextTurn s = .engine ∧ s.pend = some w ∧ decodeCmd w = .ok i ∧ step s = exec i (popTurn s)) ∨
    (∃ w r, nextTurn s = .engine ∧ s.pend = some w ∧ decodeCmd w = .error r ∧ step s = completeIllegal (popTurn s)) := by
  unfold step
  cases hn : nextTurn s with
  | host a => exact .inl ⟨a, rfl, rfl⟩
  | engine =>
    refine .inr ?_
    cases hp : s.pend with
    | none => exact .inl ⟨rfl, rfl, by simp [pendingWord, hp, engineIdle]⟩
    | some w =>
      refine .inr ?_
      cases hd : decodeCmd w with
      | ok i => exact .inl ⟨w, i, rfl, rfl, hd, by simp [pendingWord, hp, hd]⟩
      | error r => exact .inr ⟨w, r, rfl, rfl, hd, by simp [pendingWord, hp, hd]⟩

/-- The one register write, by what stands there and whether a command is pending. -/
theorem writeReg_cases (v : Word) (s : State) (r : WindowReg) :
    (r = .ctrl ∧ writeReg v s r = writeCtrl v s) ∨
    (r ≠ .ctrl ∧ busy s = true ∧ writeReg v s r = dropWrite s) ∨
    (r ≠ .ctrl ∧ busy s = false ∧ writeReg v s r = writeIdle v s r) := by
  unfold writeReg
  by_cases hr : r = .ctrl
  · exact .inl ⟨hr, if_pos hr⟩
  · rw [if_neg hr]
    cases hb : busy s <;> simp [hr]

/-- What an access that is no bus error reaches: an aligned word of the window (20_memory R73, R74). -/
theorem accessReg_eq_some {addr size : Nat} {r : WindowReg} (h : accessReg addr size = some r) :
    size = 4 ∧ Config.base ≤ addr ∧ addr < Config.base + 0x1000 ∧ (addr - Config.base) % 4 = 0 ∧
      r = regAt (addr - Config.base) := by
  unfold accessReg windowOffset at h
  split at h
  · cases h
  · next off hoff =>
    split at hoff
    · next hw =>
      injection hoff with hoff
      split at h
      · next ha => injection h with h; subst hoff; exact ⟨ha.1, hw.1, hw.2, ha.2, h.symm⟩
      · cases h
    · cases hoff

/-- An aligned word of the window is reached. -/
theorem accessReg_base_add {off : Nat} (h : off < 0x1000) (ha : off % 4 = 0) :
    accessReg (Config.base + off) 4 = some (regAt off) := by
  unfold accessReg windowOffset
  rw [if_pos (by omega)]
  simp [ha]

/-- The words of IBUF (20_memory R72). -/
theorem regAt_ibuf {off : Nat} (h : 0x200 ≤ off) (h' : off < 0x400) : regAt off = .ibuf ((off - 0x200) / 4) := by
  unfold regAt
  iterate 12 rw [if_neg (by omega)]
  rw [if_pos ⟨h, h'⟩]

/-- The words of OBUF (20_memory R72). -/
theorem regAt_obuf {off : Nat} (h : 0x400 ≤ off) (h' : off < 0x600) : regAt off = .obuf ((off - 0x400) / 4) := by
  unfold regAt
  iterate 13 rw [if_neg (by omega)]
  rw [if_pos ⟨h, h'⟩]

/-- A named register stands at its own offset (10_state R39). -/
theorem regAt_regOffset {r : WindowReg} (h : ∀ i, r = .ibuf i ∨ r = .obuf i → i < 128) : regAt (regOffset r) = r := by
  cases r with
  | ibuf i =>
    have hi := h i (.inl rfl)
    show regAt (0x200 + 4 * i) = _
    rw [regAt_ibuf (by omega) (by omega), show (0x200 + 4 * i - 0x200) / 4 = i by omega]
  | obuf i =>
    have hi := h i (.inr rfl)
    show regAt (0x400 + 4 * i) = _
    rw [regAt_obuf (by omega) (by omega), show (0x400 + 4 * i - 0x400) / 4 = i by omega]
  | _ => rfl

end Sys2Proof.Machine
end

