-- ==== Sys2Proof/Laws/Memory.lean ====
section
/-! SUPPORT. The laws of the buffers: an entry reads what was written last, other entries stay, and every operation keeps the canonical form. -/

namespace Sys2Proof.Machine

/-- `Memory.wf` as a proposition. -/
theorem Memory.wf_iff (m : Memory) :
    m.wf = true ↔ m.Pairwise (fun c d => c.1 < d.1) ∧ ∀ c ∈ m, c.1 < Config.ibufCap ∧ c.2 ≠ unlistedByte := by
  simp [Memory.wf]

@[simp] theorem Memory.read_nil (i : Nat) : Memory.read [] i = unlistedByte := rfl

theorem Memory.read_cons (k : Nat) (v : Byte) (m : Memory) (i : Nat) :
    Memory.read ((k, v) :: m) i = if k = i then v else Memory.read m i := rfl

/-- An entry below every listed one reads as an unlisted one. -/
theorem Memory.read_of_lt {m : Memory} {i : Nat} (h : ∀ c ∈ m, i < c.1) : m.read i = unlistedByte := by
  induction m with
  | nil => rfl
  | cons c m ih =>
    obtain ⟨k, v⟩ := c
    have hk : i < k := h (k, v) (by simp)
    rw [Memory.read_cons, if_neg (by omega), ih fun c hc => h c (by simp [hc])]

/-- A put entry reads what was put; every other one reads as before. -/
theorem Memory.read_put {m : Memory} (hm : m.Pairwise fun c d => c.1 < d.1) (i : Nat) (b : Byte) (j : Nat) :
    (m.put i b).read j = if i = j then b else m.read j := by
  induction m with
  | nil =>
    unfold Memory.put
    split
    · next h => split <;> simp [h]
    · simp [Memory.read_cons]
  | cons c m ih =>
    obtain ⟨k, v⟩ := c
    have hlt : ∀ c ∈ m, k < c.1 := fun c hc => List.rel_of_pairwise_cons hm hc
    have ih := ih hm.of_cons
    unfold Memory.put
    split
    · next hik =>
      split
      · next hb =>
        split
        · next hij =>
          subst hij
          rw [hb, Memory.read_cons, if_neg (by omega)]
          exact Memory.read_of_lt fun c hc => Nat.lt_trans hik (hlt c hc)
        · rfl
      · simp [Memory.read_cons]
    · split
      · next hik =>
        subst hik
        split
        · next hb =>
          split
          · next hij => subst hij; rw [hb]; exact Memory.read_of_lt hlt
          · next hij => rw [Memory.read_cons, if_neg hij]
        · rw [Memory.read_cons, Memory.read_cons]; split <;> rfl
      · next h1 h2 =>
        rw [Memory.read_cons, Memory.read_cons, ih]
        split
        · next hkj => rw [if_neg (by omega)]
        · rfl

/-- What `put` lists: the entry put, or one listed before. -/
theorem Memory.mem_put {m : Memory} {i : Nat} {b : Byte} {c : Host.Cell} (h : c ∈ m.put i b) :
    (c = (i, b) ∧ b ≠ unlistedByte) ∨ c ∈ m := by
  induction m with
  | nil => unfold Memory.put at h; split at h <;> simp_all
  | cons d m ih =>
    obtain ⟨k, v⟩ := d
    unfold Memory.put at h
    split at h
    · split at h
      · exact .inr h
      · next hb =>
        rcases List.mem_cons.1 h with rfl | h
        · exact .inl ⟨rfl, hb⟩
        · exact .inr h
    · split at h
      · split at h
        · exact .inr (List.mem_cons_of_mem _ h)
        · next hb =>
          rcases List.mem_cons.1 h with rfl | h
          · exact .inl ⟨rfl, hb⟩
          · exact .inr (List.mem_cons_of_mem _ h)
      · rcases List.mem_cons.1 h with rfl | h
        · exact .inr (by simp)
        · rcases ih h with h | h
          · exact .inl h
          · exact .inr (List.mem_cons_of_mem _ h)

/-- `put` keeps the indices strictly rising. -/
theorem Memory.put_sorted {m : Memory} (hm : m.Pairwise fun c d => c.1 < d.1) (i : Nat) (b : Byte) :
    (m.put i b).Pairwise fun c d => c.1 < d.1 := by
  induction m with
  | nil => unfold Memory.put; split <;> simp
  | cons c m ih =>
    obtain ⟨k, v⟩ := c
    have hlt : ∀ c ∈ m, k < c.1 := fun c hc => List.rel_of_pairwise_cons hm hc
    unfold Memory.put
    split
    · next hik =>
      split
      · exact hm
      · refine List.pairwise_cons.2 ⟨fun c hc => ?_, hm⟩
        rcases List.mem_cons.1 hc with rfl | hc
        · exact hik
        · exact Nat.lt_trans hik (hlt c hc)
    · split
      · next hik =>
        subst hik
        split
        · exact hm.of_cons
        · exact List.pairwise_cons.2 ⟨fun c hc => hlt c hc, hm.of_cons⟩
      · next h1 h2 =>
        refine List.pairwise_cons.2 ⟨fun c hc => ?_, ih hm.of_cons⟩
        rcases Memory.mem_put hc with ⟨rfl, -⟩ | hc
        · show k < i; omega
        · exact hlt c hc

/-- A write of entry `i` reads back at `i`; every other entry reads as before. -/
theorem Memory.read_write {m : Memory} (hm : m.wf = true) {i : Nat} (hi : i < Config.ibufCap) (b : Byte) (j : Nat) :
    (m.write i b).read j = if i = j then b else m.read j := by
  unfold Memory.write
  rw [if_pos hi, Memory.read_put ((Memory.wf_iff m).1 hm).1]

/-- A write keeps the canonical form, whatever the index. -/
theorem Memory.write_wf {m : Memory} (hm : m.wf = true) (i : Nat) (b : Byte) : (m.write i b).wf = true := by
  unfold Memory.write
  split
  · next hi =>
    obtain ⟨hs, hc⟩ := (Memory.wf_iff m).1 hm
    refine (Memory.wf_iff _).2 ⟨Memory.put_sorted hs i b, fun c h => ?_⟩
    rcases Memory.mem_put h with ⟨rfl, hb⟩ | h
    · exact ⟨hi, hb⟩
    · exact hc c h
  · exact hm

/-- Writing a sequence keeps the canonical form. -/
theorem Memory.writeFrom_wf {m : Memory} (hm : m.wf = true) (k : Nat) (bs : List Byte) : (m.writeFrom k bs).wf = true := by
  induction bs generalizing m k with
  | nil => exact hm
  | cons b bs ih => exact ih (Memory.write_wf hm k b) (k + 1)

/-- The empty memory, which reset leaves, is canonical. -/
@[simp] theorem Memory.wf_nil : Memory.wf [] = true := by decide

/-- A sequence written from entry `k` on, all of it inside the buffer: those entries read the sequence, and every other
entry reads as before. -/
theorem Memory.read_writeFrom {m : Memory} (hm : m.wf = true) {k : Nat} {bs : List Byte}
    (h : k + bs.length ≤ Config.ibufCap) (j : Nat) :
    (m.writeFrom k bs).read j = if k ≤ j ∧ j < k + bs.length then bs.getD (j - k) unlistedByte else m.read j := by
  induction bs generalizing m k with
  | nil => simp only [Memory.writeFrom, List.length_nil]; rw [if_neg (by omega)]
  | cons b bs ih =>
    simp only [List.length_cons] at h ⊢
    rw [Memory.writeFrom, ih (Memory.write_wf hm k b) (by omega)]
    by_cases hj : k = j
    · subst hj
      rw [if_neg (by omega), if_pos (by omega), Memory.read_write hm (by omega)]
      simp
    · rw [Memory.read_write hm (by omega), if_neg hj]
      by_cases hk : k + 1 ≤ j ∧ j < k + 1 + bs.length
      · rw [if_pos hk, if_pos (by omega)]
        obtain ⟨d, rfl⟩ : ∃ d, j = k + 1 + d := ⟨j - (k + 1), by omega⟩
        simp [show k + 1 + d - k = d + 1 by omega]
      · rw [if_neg hk, if_neg (by omega)]

end Sys2Proof.Machine
end

