-- ==== Sys2Proof/Laws/PerInstr.lean ====
section
/-! SUPPORT. Statements about every instruction as syntax, one lemma per constructor. Family EncodingLegal: an instruction's word is one the tables of 30_encoding R106 admit. -/

namespace Sys2Proof

/-- The instruction's word matches a row of R106 and passes the field checks of R104 to R106. -/
def Laws.EncodingLegal.Statement (i : Instr) : Prop :=
  legalWord (Sys2Proof.encode i) = true ∧ wellFormedWord (Sys2Proof.encode i) = true

theorem Laws.EncodingLegal.nop : Laws.EncodingLegal.Statement .nop := by unfold Laws.EncodingLegal.Statement; decide

theorem Laws.EncodingLegal.validate : Laws.EncodingLegal.Statement .validate := by
  unfold Laws.EncodingLegal.Statement; decide

theorem Laws.EncodingLegal.mapDec (arg : Byte) : Laws.EncodingLegal.Statement (.mapDec arg) := by
  unfold Laws.EncodingLegal.Statement; revert arg; decide +kernel

theorem Laws.EncodingLegal.mapEnc (arg : Byte) : Laws.EncodingLegal.Statement (.mapEnc arg) := by
  unfold Laws.EncodingLegal.Statement; revert arg; decide +kernel

theorem Laws.EncodingLegal.strip : Laws.EncodingLegal.Statement .strip := by unfold Laws.EncodingLegal.Statement; decide

theorem Laws.EncodingLegal.chkInit : Laws.EncodingLegal.Statement .chkInit := by
  unfold Laws.EncodingLegal.Statement; decide

theorem Laws.EncodingLegal.chkStep (arg : Byte) : Laws.EncodingLegal.Statement (.chkStep arg) := by
  unfold Laws.EncodingLegal.Statement; revert arg; decide +kernel

theorem Laws.EncodingLegal.chkHrp : Laws.EncodingLegal.Statement .chkHrp := by unfold Laws.EncodingLegal.Statement; decide

theorem Laws.EncodingLegal.chkData : Laws.EncodingLegal.Statement .chkData := by
  unfold Laws.EncodingLegal.Statement; decide

theorem Laws.EncodingLegal.chkFinal (sel : Variant) : Laws.EncodingLegal.Statement (.chkFinal sel) := by
  unfold Laws.EncodingLegal.Statement; cases sel <;> decide

theorem Laws.EncodingLegal.chkVerify : Laws.EncodingLegal.Statement .chkVerify := by
  unfold Laws.EncodingLegal.Statement; decide

theorem Laws.EncodingLegal.encode (sel : Variant) : Laws.EncodingLegal.Statement (.encode sel) := by
  unfold Laws.EncodingLegal.Statement; cases sel <;> decide

theorem Laws.EncodingLegal.decode : Laws.EncodingLegal.Statement .decode := by
  unfold Laws.EncodingLegal.Statement; decide

end Sys2Proof
end

