-- ==== Sys2Proof/Tests/Slice0.lean ====
section
/-! SUPPORT. Tests. Expected results come from spec/95_test_vectors.md (the section is named at each test) or from the patterns of 30_encoding R106. The witness theorems show, for each statement with hypotheses, a state and operands that meet them together. -/

set_option Elab.async false

namespace Sys2Proof.Tests
open Sys2Proof.Machine

/-- Reset, with an input present in IBUF: what `LOAD` leaves (30_encoding R112). -/
def loaded (text : List Byte) : State :=
  { State.reset with ibuf := Memory.writeFrom [] 0 text, ilen := BitVec.ofNat 16 text.length }

/-- `loaded`, with the first entries an ENCODE's HRP. -/
def loadedHrp (h d : List Byte) : State := { loaded (h ++ d) with hlenIn := BitVec.ofNat 16 h.length }

/-- One reading of the state a command ends in. -/
def after {α : Type} (i : Instr) (s : State) (f : State → α) : Option α :=
  match exec i s with
  | .next t => some (f t)
  | .fault _ => none
  | .refused _ => none

/-- OBUF's valid entries. -/
def output (s : State) : List Byte := (List.range s.olen.toNat).map s.obuf.read

/-- "a12uel5l". -/
def strA : List Byte := [0x61#8, 0x31#8, 0x32#8, 0x75#8, 0x65#8, 0x6C#8, 0x35#8, 0x6C#8]

/-- "a12uel5m". -/
def strBad : List Byte := [0x61#8, 0x31#8, 0x32#8, 0x75#8, 0x65#8, 0x6C#8, 0x35#8, 0x6D#8]

/-- "hello". -/
def strHello : List Byte := [0x68#8, 0x65#8, 0x6C#8, 0x6C#8, 0x6F#8]

/-- "hello1w0rldjn365x". -/
def strHelloEnc : List Byte := [0x68#8, 0x65#8, 0x6C#8, 0x6C#8, 0x6F#8, 0x31#8, 0x77#8, 0x30#8, 0x72#8, 0x6C#8, 0x64#8, 0x6A#8, 0x6E#8, 0x33#8, 0x36#8, 0x35#8, 0x78#8]

/- ---- Well-formedness: an ill-formed word for each check, refused (30_encoding R104 to R107; 95 L2.1) ---- -/

theorem test_illFormed_rsv : rsvClear 0x00020000#32 = false ∧ wellFormedWord 0x00020000#32 = false ∧ legalWord 0x00020000#32 = false := by decide

theorem test_illFormed_rsv31 : rsvClear 0x80000005#32 = false ∧ wellFormedWord 0x80000005#32 = false ∧ legalWord 0x80000005#32 = false := by decide

theorem test_illFormed_op : opDefined 0x0000000D#32 = false ∧ wellFormedWord 0x0000000D#32 = false ∧ legalWord 0x0000000D#32 = false := by decide

theorem test_illFormed_arg : argUsed 0x00000104#32 = false ∧ wellFormedWord 0x00000104#32 = false ∧ legalWord 0x00000104#32 = false := by decide

theorem test_illFormed_sel : selUsed 0x00010006#32 = false ∧ wellFormedWord 0x00010006#32 = false ∧ legalWord 0x00010006#32 = false := by decide

/- ---- Decoding: each constructor's word written out from its pattern (30_encoding R106; 95 L2.1) ---- -/

theorem test_decode_nop : decodeCmd 0b00000000000000000000000000000000#32 = .ok .nop ∧
    decodeTableWord 32 0b00000000000000000000000000000000 = some .nop := by decide

theorem test_decode_validate : decodeCmd 0b00000000000000000000000000000001#32 = .ok .validate ∧
    decodeTableWord 32 0b00000000000000000000000000000001 = some .validate := by decide

theorem test_decode_mapDec : decodeCmd 0b00000000000000000111011100000010#32 = .ok (.mapDec 0x77#8) ∧
    decodeTableWord 32 0b00000000000000000111011100000010 = some (.mapDec 0x77#8) := by decide

theorem test_decode_mapDec_top : decodeCmd 0b00000000000000001111111100000010#32 = .ok (.mapDec 0xFF#8) ∧
    decodeTableWord 32 0b00000000000000001111111100000010 = some (.mapDec 0xFF#8) := by decide

theorem test_decode_mapEnc : decodeCmd 0b00000000000000000000111000000011#32 = .ok (.mapEnc 14#8) ∧
    decodeTableWord 32 0b00000000000000000000111000000011 = some (.mapEnc 14#8) := by decide

theorem test_decode_strip : decodeCmd 0b00000000000000000000000000000100#32 = .ok .strip ∧
    decodeTableWord 32 0b00000000000000000000000000000100 = some .strip := by decide

theorem test_decode_chkInit : decodeCmd 0b00000000000000000000000000000101#32 = .ok .chkInit ∧
    decodeTableWord 32 0b00000000000000000000000000000101 = some .chkInit := by decide

theorem test_decode_chkStep : decodeCmd 0b00000000000000000001111100000110#32 = .ok (.chkStep 31#8) ∧
    decodeTableWord 32 0b00000000000000000001111100000110 = some (.chkStep 31#8) := by decide

theorem test_decode_chkHrp : decodeCmd 0b00000000000000000000000000000111#32 = .ok .chkHrp ∧
    decodeTableWord 32 0b00000000000000000000000000000111 = some .chkHrp := by decide

theorem test_decode_chkData : decodeCmd 0b00000000000000000000000000001000#32 = .ok .chkData ∧
    decodeTableWord 32 0b00000000000000000000000000001000 = some .chkData := by decide

theorem test_decode_chkFinal : decodeCmd 0b00000000000000000000000000001001#32 = .ok (.chkFinal .bech32) ∧
    decodeTableWord 32 0b00000000000000000000000000001001 = some (.chkFinal .bech32) := by decide

theorem test_decode_chkFinal_m : decodeCmd 0b00000000000000010000000000001001#32 = .ok (.chkFinal .bech32m) ∧
    decodeTableWord 32 0b00000000000000010000000000001001 = some (.chkFinal .bech32m) := by decide

theorem test_decode_chkVerify : decodeCmd 0b00000000000000000000000000001010#32 = .ok .chkVerify ∧
    decodeTableWord 32 0b00000000000000000000000000001010 = some .chkVerify := by decide

theorem test_decode_encode : decodeCmd 0b00000000000000000000000000001011#32 = .ok (.encode .bech32) ∧
    decodeTableWord 32 0b00000000000000000000000000001011 = some (.encode .bech32) := by decide

theorem test_decode_encode_m : decodeCmd 0b00000000000000010000000000001011#32 = .ok (.encode .bech32m) ∧
    decodeTableWord 32 0b00000000000000010000000000001011 = some (.encode .bech32m) := by decide

theorem test_decode_decode : decodeCmd 0b00000000000000000000000000001100#32 = .ok .decode ∧
    decodeTableWord 32 0b00000000000000000000000000001100 = some .decode := by decide

theorem test_decode_refuses_opcode : decodeCmd 0x0000000D#32 = .error .undefinedOpcode := by decide

theorem test_decode_refuses_rsv : decodeCmd 0x00020000#32 = .error .reservedBits := by decide

theorem test_decode_refuses_arg : decodeCmd 0x0001FF0B#32 = .error .unusedArg := by decide

theorem test_decode_refuses_sel : decodeCmd 0x00010001#32 = .error .unusedSel := by decide

theorem test_decodeBytes_littleEndian : decodeBytes [0x06#8, 0x0E#8, 0x00#8, 0x00#8] = .ok (.chkStep 14#8) := by decide

/- ---- One command each (95 L1, L2) ---- -/

/-- 95 L2.9. -/
theorem test_nop_clearsTheError : after .nop { State.reset with err := true, errcode := 12#5 } statusWord = some 0x00000002#32 := by decide +kernel

/-- 95 L2.3. -/
theorem test_validate_lastSeparator : after .validate (loaded [0x61#8, 0x31#8, 0x62#8, 0x31#8, 0x71#8, 0x71#8, 0x71#8, 0x71#8, 0x71#8, 0x71#8]) (fun t => (statusWord t, t.result)) = some (0x00000002#32, 3#8) := by decide +kernel

/-- 95 L2.3. -/
theorem test_validate_mixedCaseFirst : after .validate (loaded [0x41#8, 0x62#8, 0x20#8, 0x31#8, 0x71#8, 0x71#8, 0x71#8, 0x71#8, 0x71#8, 0x71#8]) statusWord = some 0x00000036#32 := by decide +kernel

/-- 95 L2.4. -/
theorem test_mapDec_upper : after (.mapDec 0x4C#8) State.reset (fun t => (statusWord t, t.result)) = some (0x00000002#32, 31#8) := by decide +kernel

/-- 95 L2.4. -/
theorem test_mapDec_separator : after (.mapDec 0x31#8) State.reset statusWord = some 0x00000096#32 := by decide +kernel

/-- 95 L2.4. -/
theorem test_mapEnc_14 : after (.mapEnc 14#8) State.reset (fun t => (statusWord t, t.result)) = some (0x00000002#32, 0x77#8) := by decide +kernel

/-- 95 L2.4. -/
theorem test_mapEnc_32 : after (.mapEnc 32#8) State.reset statusWord = some 0x000000A6#32 := by decide +kernel

/-- 95 L2.5. -/
theorem test_strip_keepsInOrder : after .strip (loaded [0x61#8, 0x80#8, 0x62#8, 0xFF#8, 0x63#8, 0x31#8]) (fun t => (statusWord t, output t)) = some (0x00000002#32, [0x61#8, 0x63#8, 0x31#8]) := by decide +kernel

/-- 95 L2.5. -/
theorem test_strip_absent : after .strip { State.reset with iabsent := true, olen := 3#16 } (fun t => (statusWord t, t.olen)) = some (0x00000802#32, 0#16) := by decide +kernel

/-- 95 L2.6 step 7. -/
theorem test_chkInit_one : after .chkInit { State.reset with chk := 7#30 } (fun t => (t.chk, t.csum)) = some (1#30, 0#30) := by decide +kernel

/-- 95 L2.6 step 2. -/
theorem test_chkStep_allGenerators : after (.chkStep 31#8) { State.reset with chk := 0x3FFFFFFF#30 } (fun t => t.chk) = some 0x2B326EB4#30 := by decide +kernel

/-- 95 L2.6 step 6. -/
theorem test_chkStep_32 : after (.chkStep 32#8) { State.reset with chk := 0x3FFFFFFF#30 } (fun t => (statusWord t, t.chk)) = some (0x000000A6#32, 0x3FFFFFFF#30) := by decide +kernel

/-- 95 L1 W5. -/
theorem test_chkHrp_upperA : after .chkHrp (loaded [0x41#8]) (fun t => t.chk) = some 34817#30 := by decide +kernel

/-- 95 L2.6 step 18. -/
theorem test_chkHrp_overflow : after .chkHrp { State.reset with ilen := 200#16 } (fun t => (statusWord t, t.chk)) = some (0x000000F6#32, 1#30) := by decide +kernel

/-- 95 L2.6, the chain. -/
theorem test_chkData_residue : after .chkData { loaded [10#8, 28#8, 25#8, 31#8, 20#8, 31#8] with chk := 0x8C01#30 } (fun t => t.chk) = some 1#30 := by decide +kernel

/-- 95 L2.6 step 10. -/
theorem test_chkData_lastValueBad : after .chkData (loaded [1#8, 2#8, 40#8]) (fun t => (statusWord t, t.chk)) = some (0x000000A6#32, 1#30) := by decide +kernel

/-- 95 L3 P2. -/
theorem test_chkFinal_m : after (.chkFinal .bech32m) { State.reset with chk := 0x8C01#30 } (fun t => (t.csum, t.chk)) = some (0x3E04CE3D#30, 0x8C01#30) := by decide +kernel

/-- 95 L2.6 step 11. -/
theorem test_chkFinal_original : after (.chkFinal .bech32) { State.reset with chk := 0#30 } (fun t => t.csum) = some 1#30 := by decide +kernel

/-- 95 L2.6 step 14. -/
theorem test_chkVerify_m : after .chkVerify { State.reset with chk := 0x2BC830A3#30 } statusWord = some 0x00000402#32 := by decide +kernel

/-- 95 L2.6 step 13. -/
theorem test_chkVerify_bad : after .chkVerify { State.reset with chk := 5#30 } statusWord = some 0x000000C6#32 := by decide +kernel

/-- 95 L2.8. -/
theorem test_encode_hello : after (.encode .bech32m) (loadedHrp strHello [14#8, 15#8, 3#8, 31#8, 13#8]) (fun t => (statusWord t, t.hlenOut, output t)) = some (0x00000402#32, 0#16, strHelloEnc) := by decide +kernel

/-- 95 L2.8. -/
theorem test_encode_spaceInHrp : after (.encode .bech32) { loadedHrp [0x61#8, 0x20#8, 0x62#8] [] with olen := 5#16, hlenOut := 2#16 } (fun t => (statusWord t, t.olen, t.hlenOut)) = some (0x00000046#32, 0#16, 0#16) := by decide +kernel

/-- 95 L1 W4. -/
theorem test_decode_hello : after .decode (loaded strHelloEnc) (fun t => (statusWord t, t.hlenOut, output t)) = some (0x00000402#32, 5#16, strHello ++ [14#8, 15#8, 3#8, 31#8, 13#8]) := by decide +kernel

/-- 95 L1 W3. -/
theorem test_decode_badChecksum : after .decode { loaded strBad with olen := 5#16, hlenOut := 2#16 } (fun t => (statusWord t, t.olen, t.hlenOut)) = some (0x000000C6#32, 0#16, 0#16) := by decide +kernel

/- ---- The functions (95 L2.2) ---- -/

theorem test_polyStep_gen0 : polyStep 0x02000000#30 0#5 = 0x3B6A57B2#30 := by decide

theorem test_polyStep_gen4 : polyStep 0x20000000#30 0#5 = 0x2A1462B3#30 := by decide

theorem test_createChecksum_a : createChecksum [0x61#8] [] 0x2BC830A3#30 = [31#5, 0#5, 9#5, 19#5, 17#5, 29#5] := by
  decide +kernel

/- ---- The window, the step and reset (95 L2.9) ---- -/

theorem test_readId : readReg State.reset .id = 0x42333201#32 ∧ readReg State.reset .chk = 1#32 := by decide

theorem test_illegalWord : (match step (State.reset.withFetchWord 32 0x104) with
    | .next t => some (statusWord t)
    | .fault _ => none
    | .refused _ => none) = some 0x000000E6#32 := by decide

theorem test_droppedWrite : statusWord (writeReg 3#32 (issue 0x0C#32 (loaded strA)) .ilen) = 0x00000009#32 := by decide +kernel

theorem test_ackKeepsTheError :
    statusWord (writeReg 2#32 { State.reset with done := true, err := true, errcode := 12#5 } .status) = 0x000000C4#32 := by
  decide

theorem test_ctrlBothBits : ctrlWord (writeReg 3#32 { State.reset with ilen := 3#16 } .ctrl) = 0#32 ∧
    (writeReg 3#32 { State.reset with ilen := 3#16 } .ctrl).ilen = 0#16 := by decide

theorem test_chkWriteCut : (writeReg 0xFFFFFFFF#32 State.reset .chk).chk = 0x3FFFFFFF#30 := by decide

theorem test_halfWordIsABusError : step { State.reset with turns := [.host (.read Config.base 2)] } = .fault .busError := by
  simp [step, nextTurn, hostTurn, popTurn, hostRead, memRead, accessReg, windowOffset]

theorem test_reset_memory_wf : State.reset.ibuf.wf = true ∧ State.reset.obuf.wf = true := by decide

/- ---- Witnesses: for each statement with hypotheses, a case that meets them ---- -/

theorem witness_LegalWordsAreTheTableRows :
    ∃ r ∈ opRows, r.matches 0x0001000B#32 = true := ⟨_, by decide, (by decide : OpRow.matches ⟨"ENCODE", 0xFFFEFFFF#32, 0x0000000B#32⟩ _ = true)⟩

theorem witness_BytesDecodeAsTheirWord :
    ([] : List Byte).length ≠ 4 ∧ [0#8, 0#8, 0#8, 0#8, 0#8].length ≠ 4 := by decide

theorem witness_StructuralPassMeansConforming :
    structural strA = .ok ⟨1, [0x61#8], [0x32#8, 0x75#8, 0x65#8, 0x6C#8, 0x35#8, 0x6C#8]⟩ := by decide +kernel

theorem witness_StructuralPass_atTheBounds :
    ∃ x, structural (List.replicate 83 0x61#8 ++ [0x31#8] ++ List.replicate 6 0x71#8) = .ok x := ⟨⟨83, List.replicate 83 0x61#8, List.replicate 6 0x71#8⟩, by decide +kernel⟩

theorem witness_ReverseTableFollowsTheAlphabet :
    (0x7F#8 < 0x80#8) ∧ (0x4C#8 < 0x80#8 ∧ revmapAt 0x4C#8 = some 31#5 ∧ alphabetAt 31#5 = lower 0x4C#8) := by decide

theorem witness_CharsetLaws :
    (0x4C#8 < 0x80#8 ∧ revmapAt 0x4C#8 = some 31#5) ∧ 0x71#8 ∈ strip strBad ++ [0x71#8] ∧ 0x31#8 ∈ strip strA := by decide +kernel

theorem witness_FoldIsLinear :
    [1#5, 2#5].length = [3#5, 31#5].length := rfl

theorem witness_DecodeInvertsEncode :
    1 ≤ strHello.length ∧ strHello.length ≤ 83 ∧ (∀ c ∈ strHello, 0x21#8 ≤ c ∧ c ≤ 0x7E#8) ∧
      (∀ v ∈ [0#8, 31#8], v ≤ 31#8) ∧ strHello.length + [0#8, 31#8].length + 7 ≤ 90 := by decide

theorem witness_DecodeInvertsEncode_longest :
    (List.replicate 83 0x41#8).length = 83 ∧ (∀ c ∈ List.replicate 83 0x41#8, 0x21#8 ≤ c ∧ c ≤ 0x7E#8) ∧
      (List.replicate 83 0x41#8).length + ([] : List Byte).length + 7 ≤ 90 := by decide +kernel

theorem witness_DecodeIgnoresCase :
    strA.any isUpper = false ∧ (strA.map upper).any isLower = false ∧ strA.map upper ≠ strA := by decide +kernel

theorem witness_NopOnlyWritesStatus :
    BitVec.extractLsb' 0 8 0x00000100#32 = 0x00#8 ∧ 0x00000100#32 ≠ 0x00000000#32 := by decide

theorem witness_ChkStepFoldsOneValue :
    31#8 ≤ 31#8 ∧ 32#8 > 31#8 := by decide

theorem witness_ChkDataEqualsItsSteps :
    (loaded [0#8, 31#8]).iabsent = false ∧ 1 ≤ (loaded [0#8, 31#8]).ilen.toNat ∧ (loaded [0#8, 31#8]).ilen.toNat ≤ 128 ∧
      ∀ i, i < (loaded [0#8, 31#8]).ilen.toNat → (loaded [0#8, 31#8]).ibuf.read i ≤ 31#8 := by decide +kernel

theorem witness_ChkFinalMakesTheChecksum :
    ({ State.reset with chk := 0x8C01#30 } : State).chk = foldFrom (foldFrom 1#30 (expand [0x61#8])) [] := by decide +kernel

theorem witness_MapDecReadsTheReverseTable :
    0x80#8 ≥ 0x80#8 ∧ (0x7F#8 < 0x80#8 ∧ ∀ v, alphabetAt v ≠ lower 0x7F#8) ∧ (0x51#8 < 0x80#8 ∧ alphabetAt 0#5 = lower 0x51#8) := by decide +kernel

theorem witness_MapEncReadsTheAlphabet :
    31#8 ≤ 31#8 ∧ 32#8 > 31#8 := by decide

/-- The errors of VALIDATE and DECODE at the bounds (95 L2.3): absent; 7 and 91 long; both cases; 0x20 and 0x7F; no separator; the
last one at 0, at 84, and five from the end; and none of them. -/
theorem witness_ValidateReportsTheFirstFailure :
    structureErrorOf { State.reset with iabsent := true } = some 13#5 ∧
    structureErrorOf { State.reset with ilen := 7#16 } = some 1#5 ∧
    structureErrorOf { State.reset with ilen := 91#16 } = some 2#5 ∧
    structureErrorOf (loaded [0x41#8, 0x31#8, 0x32#8, 0x75#8, 0x65#8, 0x6C#8, 0x35#8, 0x6C#8]) = some 3#5 ∧
    structureErrorOf (loaded [0x61#8, 0x31#8, 0x20#8, 0x32#8, 0x75#8, 0x65#8, 0x6C#8, 0x35#8]) = some 4#5 ∧
    structureErrorOf (loaded [0x61#8, 0x31#8, 0x32#8, 0x75#8, 0x65#8, 0x6C#8, 0x35#8, 0x7F#8]) = some 4#5 ∧
    structureErrorOf (loaded [0x61#8, 0x62#8, 0x63#8, 0x64#8, 0x65#8, 0x66#8, 0x67#8, 0x68#8]) = some 5#5 ∧
    structureErrorOf (loaded [0x31#8, 0x71#8, 0x71#8, 0x71#8, 0x71#8, 0x71#8, 0x71#8, 0x71#8]) = some 6#5 ∧
    structureErrorOf (loaded (List.replicate 84 0x61#8 ++ [0x31#8, 0x71#8, 0x71#8, 0x71#8, 0x71#8, 0x71#8])) = some 7#5 ∧
    structureErrorOf (loaded [0x61#8, 0x62#8, 0x31#8, 0x71#8, 0x71#8, 0x71#8, 0x71#8, 0x71#8]) = some 8#5 ∧
    structureErrorOf (loaded strA) = none ∧
    structureErrorOf (loaded (List.replicate 83 0x61#8 ++ [0x31#8, 0x71#8, 0x71#8, 0x71#8, 0x71#8, 0x71#8, 0x71#8])) = none := by decide +kernel

theorem witness_ValidateLastSeparator :
    IsLastSep (loaded strA) 1 := ⟨by decide, by decide, by decide +kernel⟩

theorem witness_StripWritesTheKeptCharacters :
    ({ State.reset with iabsent := true } : State).obuf.wf = true ∧ State.reset.iabsent = false ∧
      ({ State.reset with ilen := 129#16 } : State).ilen.toNat > 128 ∧ ({ State.reset with ilen := 128#16 } : State).ilen.toNat ≤ 128 := by decide

theorem witness_DecodeReportsTheFirstFailure_badCharacter :
    structureErrorOf (loaded [0x61#8, 0x31#8, 0x62#8, 0x32#8, 0x63#8, 0x33#8, 0x64#8, 0x34#8, 0x65#8, 0x35#8]) = none ∧ IsLastSep (loaded [0x61#8, 0x31#8, 0x62#8, 0x32#8, 0x63#8, 0x33#8, 0x64#8, 0x34#8, 0x65#8, 0x35#8]) 1 ∧
      ∃ i, 1 < i ∧ i < (State.ilen (loaded [0x61#8, 0x31#8, 0x62#8, 0x32#8, 0x63#8, 0x33#8, 0x64#8, 0x34#8, 0x65#8, 0x35#8])).toNat ∧ ∀ v, alphabetAt v ≠ lower (State.ibuf (loaded [0x61#8, 0x31#8, 0x62#8, 0x32#8, 0x63#8, 0x33#8, 0x64#8, 0x34#8, 0x65#8, 0x35#8]) |>.read i) := ⟨by decide +kernel, ⟨by decide, by decide, by decide +kernel⟩, 2, by decide, by decide, by decide +kernel⟩

/-- The residue 5 is neither constant (95 L1 W3). -/
theorem witness_DecodeReportsTheFirstFailure_badChecksum :
    structureErrorOf (loaded strBad) = none ∧ IsLastSep (loaded strBad) 1 ∧
      IsDataPart (loaded strBad) 1 [10#5, 28#5, 25#5, 31#5, 20#5, 27#5] ∧
      polymod (expand (lowerHrp (loaded strBad) 1) ++ [10#5, 28#5, 25#5, 31#5, 20#5, 27#5]) = 5#30 := ⟨by decide +kernel, ⟨by decide, by decide, by decide +kernel⟩, ⟨by decide, by decide +kernel⟩, by decide +kernel⟩

theorem witness_DecodePutsOutHrpAndPayload :
    (loaded strA).obuf.wf = true ∧ structureErrorOf (loaded strA) = none ∧ IsLastSep (loaded strA) 1 ∧
      IsDataPart (loaded strA) 1 [10#5, 28#5, 25#5, 31#5, 20#5, 31#5] ∧
      polymod (expand (lowerHrp (loaded strA) 1) ++ [10#5, 28#5, 25#5, 31#5, 20#5, 31#5]) = checksumConst .bech32 := ⟨by decide, by decide +kernel, ⟨by decide, by decide, by decide +kernel⟩, ⟨by decide, by decide +kernel⟩, by decide +kernel⟩

/-- The errors of ENCODE at the bounds (95 L2.8): absent; HLEN_IN 2 of 1; HRP 0 and 84 long; ILEN 84; 0x20 in the HRP; a value of
32; and none of them, at ILEN 83. -/
theorem witness_EncodeReportsTheFirstFailure :
    encodeErrorOf { State.reset with iabsent := true } = some 13#5 ∧
    encodeErrorOf { loaded [0x61#8] with hlenIn := 2#16 } = some 16#5 ∧
    encodeErrorOf (loaded [0x61#8, 0x62#8, 0x63#8]) = some 6#5 ∧
    encodeErrorOf (loadedHrp (List.replicate 84 0x61#8) []) = some 7#5 ∧
    encodeErrorOf (loadedHrp (List.replicate 83 0x61#8) [0#8]) = some 11#5 ∧
    encodeErrorOf (loadedHrp [0x61#8, 0x20#8, 0x62#8] []) = some 4#5 ∧
    encodeErrorOf (loadedHrp [0x61#8] [32#8]) = some 10#5 ∧
    encodeErrorOf (loadedHrp [0x61#8] (List.replicate 82 31#8)) = none := by decide +kernel

theorem witness_EncodePutsOutTheString :
    (loadedHrp [0x41#8] [0#8, 31#8]).obuf.wf = true ∧ encodeErrorOf (loadedHrp [0x41#8] [0#8, 31#8]) = none := by decide +kernel

/-- The state ENCODE leaves on "a" with Bech32 (95 L1 W2), and a state whose input is its output. -/
def encodedA : State :=
  match exec (.encode .bech32) (loadedHrp [0x61#8] []) with
  | .next t => t
  | .fault _ => State.reset
  | .refused _ => State.reset

theorem witness_EncodedOutputDecodesBack :
    (loadedHrp [0x61#8] []).obuf.wf = true ∧ exec (.encode .bech32) (loadedHrp [0x61#8] []) = .next encodedA ∧
      encodedA.err = false ∧ (loaded strA).iabsent = false ∧ (loaded strA).ilen = encodedA.olen ∧
      ∀ i, i < encodedA.olen.toNat → (loaded strA).ibuf.read i = encodedA.obuf.read i :=
  ⟨by decide, rfl, by decide +kernel, by decide, by decide +kernel, by decide +kernel⟩

/-- Commands answer a next state, with each kind of result: the frames' and the whole-machine rules' hypotheses. -/
theorem witness_commandsAnswer :
    (∃ t, exec .nop State.reset = .next t ∧ t.err = false) ∧
    (∃ t, exec .decode { State.reset with iabsent := true } = .next t ∧ t.err = true) ∧
    (∃ t, exec .validate { State.reset with iabsent := true } = .next t ∧ t.err = true) ∧
    (∃ t, exec .strip { State.reset with iabsent := true } = .next t ∧ t.oabsent = true) ∧
    (∃ t, exec .chkVerify State.reset = .next t ∧ t.err = false ∧ t.enc ≠ 0#2) ∧
    (∃ t, exec .chkInit { State.reset with chk := 0#30 } = .next t ∧ t.chk ≠ 0#30) ∧
    (∃ t, exec (.chkFinal .bech32m) State.reset = .next t ∧ t.csum ≠ State.reset.csum) ∧
    (∃ t, exec (.mapEnc 0#8) State.reset = .next t ∧ t.result ≠ State.reset.result) ∧
    (∃ t, exec .strip { State.reset with olen := 1#16 } = .next t ∧ t.olen ≠ 1#16) :=
  ⟨⟨_, rfl, by decide⟩, ⟨_, rfl, by decide⟩, ⟨_, rfl, by decide⟩, ⟨_, rfl, by decide⟩, ⟨_, rfl, by decide⟩,
   ⟨_, rfl, by decide⟩, ⟨_, rfl, by decide +kernel⟩, ⟨_, rfl, by decide⟩, ⟨_, rfl, by decide +kernel⟩⟩

/-- An illegal word's completion answers a next state. -/
theorem witness_AbsentFlagOnlyAfterStrip : ∃ t, completeIllegal State.reset = .next t := ⟨_, rfl⟩

theorem witness_EntriesBeyondTheInputAreNotRead :
    (∀ a, a < (loaded [0x61#8]).ilen.toNat → Memory.read [(0, 0x61#8), (1, 0x62#8)] a = (loaded [0x61#8]).ibuf.read a) ∧
      ([(0, 0x61#8), (1, 0x62#8)] : Memory) ≠ (loaded [0x61#8]).ibuf ∧ ({ State.reset with iabsent := true } : State).iabsent = true := by
  decide +kernel

theorem witness_StepRunsThePendingCommand :
    (issue 0x0C#32 State.reset).pend = some 0x0C#32 ∧ (issue 0x0C#32 State.reset).turns = [] ∧ decodeCmd 0x0C#32 = .ok .decode := by
  decide

theorem witness_IllegalWordCompletesWithIllegalCommand :
    ({ issue 0x0D#32 State.reset with turns := [.engine, .host .wait] } : State).pend = some 0x0D#32 ∧ legalWord 0x0D#32 = false := by
  decide

theorem witness_PlacedWordRunsNext : decodeCmd 0x0001000B#32 = .ok (.encode .bech32m) ∧ legalWord 0x80000005#32 = false := by decide

theorem witness_IdleMachineHoldsItsState : State.reset.pend = none ∧ State.reset.turns = [] := by decide

/-- The two ends of the window, and BUSY as the statements about it ask. -/
theorem witness_window : 0xFFC < 0x1000 ∧ 0xFFC % 4 = 0 ∧ busy State.reset = false ∧ busy (issue 1#32 State.reset) = true ∧
    (127 < 128 ∧ State.reset.ibuf.wf = true) ∧ 0x000 ≠ 0x004 := by decide

theorem witness_OnlyMalformedAccessesFault :
    (HostAction.read Config.base 1).correct = false ∧
      ∀ t, step { State.reset with turns := [.host (.read Config.base 1)] } ≠ .next t := by
  constructor
  · simp [HostAction.correct, accessReg, windowOffset]
  · intro t
    simp [step, nextTurn, hostTurn, popTurn, hostRead, memRead, accessReg, windowOffset]

theorem witness_ReadTurnChangesNothing :
    ({ State.reset with turns := [.host (.read (Config.base + 0x00C) 4)] } : State).turns =
      .host (.read (Config.base + 0x00C) 4) :: [] := rfl

theorem witness_InterruptFollowsDone :
    busy { State.reset with done := true } = false ∧ (2#32).getLsbD 1 = true ∧ ({ State.reset with irqEn := true } : State).irqEn = true ∧
      ∃ t, memWrite { State.reset with done := true, irqEn := true } (Config.base + 0x00C) 4 2#32 = some t ∧ irq t = false := by
  refine ⟨by decide, by decide, rfl, writeReg 2#32 { State.reset with done := true, irqEn := true } .status, ?_, by decide⟩
  rw [memWrite, accessReg_base_add (by decide) (by decide)]
  rfl

theorem witness_BothResetsAreTheSame : (3#32).getLsbD 0 = true := by decide

/-- The invariant at reset: its hypotheses can be met (and `hostCorrect` with them). -/
theorem witness_EveryStepKeepsTheInvariant :
    Inv State.reset ∧ hostCorrect State.reset = true ∧ ∃ t, step State.reset = .next t :=
  ⟨⟨by decide, by decide, by decide, by decide, by decide, by decide, by decide, by decide, by decide, by decide⟩, by decide,
    _, rfl⟩

theorem witness_CorrectRunNeverFaults :
    hostCorrect { State.reset with turns := [.host (.write (Config.base + 0x008) 4 1#32), .host .wait, .engine, .host .resetPin] } =
      true := by
  simp [hostCorrect, Turn.correct, HostAction.correct, accessReg_base_add]

theorem witness_WaitEnds :
    ({ issue 0x0C#32 State.reset with turns := [.host .wait] } : State).turns = .host .wait :: [] ∧
      busy { issue 0x0C#32 State.reset with turns := [.host .wait] } = true := by decide

theorem witness_LoadScriptPresentsTheText : (List.replicate 128 0x71#8).length ≤ 128 ∧ State.reset.ibuf.wf = true ∧
    busy State.reset = false := by decide +kernel

theorem witness_CanonicalBuffersAreEqualWhenTheyReadEqual :
    Memory.wf [(0, 1#8), (127, 255#8)] = true ∧ Memory.wf (Memory.writeFrom [] 127 [255#8] |>.write 0 1#8) = true ∧
      Memory.wf [(0, 0#8)] = false ∧ Memory.wf [(128, 1#8)] = false := by decide

end Sys2Proof.Tests
end

section
/-! PROOFS. What a finishing command stages, said once: every body's outcome is one of the constructors of `Staged`, the
output's length bounds among them (10_state R50 to R59). -/

namespace Sys2Proof.Machine

/-- What the body of a command ends with when it does not raise, one constructor per kind of result (10_state R50, R51,
R55 to R57, R59). -/
inductive Staged (s : State) : Instr → Finish → Prop
  /-- NOP stages nothing (44_control R233). -/
  | nop : Staged s .nop ⟨s, none, false⟩
  /-- CHK's writers (R50). -/
  | chk {i : Instr} (hi : i = .chkInit ∨ (∃ v, i = .chkStep v) ∨ i = .chkHrp ∨ i = .chkData) (c : Chk) :
      Staged s i ⟨{ s with chk := c }, none, false⟩
  /-- CSUM's writer (R51). -/
  | csum (k : Variant) (c : Chk) : Staged s (.chkFinal k) ⟨{ s with csum := c }, none, false⟩
  /-- CHK_VERIFY stages nothing, and its tag is a constant's (42_checksum R183). -/
  | verify (k : Variant) : Staged s .chkVerify ⟨s, some k, false⟩
  /-- RESULT's writers (R57). -/
  | result {i : Instr} (hi : i = .validate ∨ (∃ c, i = .mapDec c) ∨ (∃ v, i = .mapEnc v)) (r : Byte) :
      Staged s i ⟨{ s with result := r }, none, false⟩
  /-- STRIP of the absent input (41_charset R148). -/
  | stripAbsent (ha : s.iabsent = true) : Staged s .strip ⟨clearOutput s, none, true⟩
  /-- STRIP of a present input, whose output fits OBUF (41_charset R148). -/
  | stripOutput (ha : s.iabsent = false) (out : List Byte) (hout : out.length ≤ Config.obufCap) :
      Staged s .strip ⟨putOutput out 0 s, none, false⟩
  /-- ENCODE and DECODE, whose output fits OBUF and holds the HRP it counts (43_codec R203, R204). -/
  | codec {i : Instr} (hi : (∃ k, i = .encode k) ∨ i = .decode) (out : List Byte) (hlen : Nat) (k : Variant)
      (hout : out.length ≤ Config.obufCap) (hh : hlen ≤ out.length) :
      Staged s i ⟨putOutput out hlen s, some k, false⟩

@[simp] theorem length_inputRange (s : State) (a b : Nat) : (inputRange s a b).length = b - a := by simp [inputRange]

@[simp] theorem length_inputSeq (s : State) : (inputSeq s).length = inputLen s := by simp [inputSeq]

/-- The stray-character filter lengthens nothing (41_charset R144). -/
theorem length_strip_le (s : List Byte) : (strip s).length ≤ s.length := List.length_filter_le _ _

@[simp] theorem length_createChecksum (h : List Byte) (d : List Sym) (k : Chk) : (createChecksum h d k).length = 6 := by
  simp [createChecksum, groups]

theorem length_of_asSyms_ok {vs : List Byte} {d : List Sym} (h : asSyms vs = .ok d) : d.length = vs.length := by
  unfold asSyms at h
  split at h
  · cases h
  · cases h; simp

theorem length_of_mapDecSeq_ok {cs : List Byte} {vs : List Sym} (h : mapDecSeq cs = .ok vs) : vs.length = cs.length := by
  induction cs generalizing vs with
  | nil => cases h; rfl
  | cons c cs ih =>
    unfold mapDecSeq at h
    split at h
    · cases h
    · split at h
      · cases h
      · next hvs => cases h; simp [ih hvs]

/-- ENCODE's output is never longer than MAX_LEN (43_codec R202). -/
theorem length_of_encodeString_ok {h d out : List Byte} {k : Variant} (hok : encodeString h d k = .ok out) :
    out.length ≤ Config.maxLen := by
  unfold encodeString at hok
  split at hok
  · cases hok
  · split at hok
    · cases hok
    · split at hok
      · cases hok
      · split at hok
        · cases hok
        · split at hok
          · cases hok
          · next hlen _ _ ds hds =>
            have hd := length_of_asSyms_ok hds
            cases hok
            simp only [Config.maxLen, Config.csumLen] at hlen
            simp only [List.length_append, List.length_map, List.length_singleton, length_createChecksum, Config.maxLen]
            omega

/-- A string that passes the structural check is cut into an HRP and a DP that are no longer than it (40_validate_split R122, R124). -/
theorem length_of_structural_ok {s : List Byte} {x : Split} (h : structural s = .ok x) :
    x.hrp.length + x.dp.length ≤ s.length := by
  unfold structural at h
  split at h
  · cases h
  · split at h
    · cases h
    · split at h
      · cases h
      · cases h
        simp only [splitAtSep, List.length_take, List.length_drop]
        omega

/-- What DECODE puts out is no longer than its input (43_codec R200). -/
theorem length_of_decodeString_ok {s : List Byte} {x : Decoded} (h : decodeString s = .ok x) :
    x.hrp.length + x.payload.length ≤ s.length := by
  unfold decodeString at h
  split at h
  · cases h
  · next y hy =>
    split at h
    · cases h
    · next dv hdv =>
      split at h
      · cases h
      · have hsplit := length_of_structural_ok hy
        have hmap := length_of_mapDecSeq_ok hdv
        cases h
        simp only [List.length_map, List.length_take]
        omega

/-- Every body that finishes is one of the kinds of `Staged`. -/
theorem staged_of_bodyOf_ok {i : Instr} {s : State} {f : Finish} (h : bodyOf i s = .ok f) : Staged s i f := by
  cases i with
  | nop => cases finish_eq_ok.1 h; exact .nop
  | validate => obtain ⟨-, -, -, x, -, rfl⟩ := validateBody_ok h; exact .result (.inl rfl) _
  | mapDec c => obtain ⟨v, -, rfl⟩ := mapDecBody_ok h; exact .result (.inr (.inl ⟨c, rfl⟩)) _
  | mapEnc v => obtain ⟨c, -, rfl⟩ := mapEncBody_ok h; exact .result (.inr (.inr ⟨v, rfl⟩)) _
  | strip =>
    obtain ⟨ha, rfl⟩ | ⟨ha, hn, rfl⟩ := stripBody_ok h
    · exact .stripAbsent ha
    · exact .stripOutput ha _ ((length_strip_le _).trans (by simpa using hn))
  | chkInit => cases finish_eq_ok.1 h; exact .chk (.inl rfl) _
  | chkStep v => obtain ⟨x, -, rfl⟩ := chkStepBody_ok h; exact .chk (.inr (.inl ⟨v, rfl⟩)) _
  | chkHrp => obtain ⟨-, -, rfl⟩ := chkHrpBody_ok h; exact .chk (.inr (.inr (.inl rfl))) _
  | chkData => obtain ⟨-, -, d, -, rfl⟩ := chkDataBody_ok h; exact .chk (.inr (.inr (.inr rfl))) _
  | chkFinal k => cases finish_eq_ok.1 h; exact .csum k _
  | chkVerify => obtain ⟨k, -, rfl⟩ := chkVerifyBody_ok h; exact .verify k
  | encode k =>
    obtain ⟨-, -, -, out, hout, rfl⟩ := encodeBody_ok h
    exact .codec (.inl ⟨k, rfl⟩) out 0 k ((length_of_encodeString_ok hout).trans (by decide)) (Nat.zero_le _)
  | decode =>
    obtain ⟨-, -, hn, x, hx, rfl⟩ := decodeBody_ok h
    have hlen : x.hrp.length + x.payload.length ≤ 90 :=
      (length_of_decodeString_ok hx).trans (by simpa using hn)
    refine .codec (.inr rfl) _ _ _ ?_ (by simp)
    simp only [List.length_append, List.length_map, Config.obufCap]
    omega

/-- How a command ends: its body raised and only STATUS, OLEN and HLEN_OUT are written, or it finished with one of the
kinds of result (44_control R231). -/
theorem exec_next_cases {i : Instr} {s t : State} (h : exec i s = .next t) :
    (∃ e, bodyOf i s = .error e ∧ t = completeErr e (if clearsOutput i then clearOutput s else s)) ∨
    (∃ f, bodyOf i s = .ok f ∧ Staged s i f ∧ t = completeOk f.enc f.absent f.staged) := by
  obtain rfl := exec_next_iff.1 h
  cases hb : bodyOf i s with
  | error e => exact .inl ⟨e, rfl, rfl⟩
  | ok f => exact .inr ⟨f, rfl, staged_of_bodyOf_ok hb, rfl⟩

end Sys2Proof.Machine
end

section
/-! PROOFS. The invariant (O55): completion establishes its STATUS clauses from any state whose buffers are canonical and
whose output fits, so a command need only keep those; and each host action keeps the whole of it. -/

namespace Sys2Proof.Machine

/-- The clauses of the invariant that speak of no STATUS field: all a completion needs. -/
structure BuffersFit (s : State) : Prop where
  ibufCanonical : s.ibuf.wf = true
  obufCanonical : s.obuf.wf = true
  outputFits : s.olen.toNat ≤ Config.obufCap
  hrpInOutput : s.hlenOut ≤ s.olen

theorem Inv.buffersFit {s : State} (h : Inv s) : BuffersFit s :=
  ⟨h.ibufCanonical, h.obufCanonical, h.outputFits, h.hrpInOutput⟩

theorem buffersFit_clearOutput {s : State} (h : BuffersFit s) : BuffersFit (clearOutput s) :=
  { h with outputFits := by simp, hrpInOutput := by simp }

/-- A sequence that fits OBUF, put out with an HRP length within it. -/
theorem buffersFit_putOutput {s : State} (h : BuffersFit s) {out : List Byte} {hlen : Nat}
    (hout : out.length ≤ Config.obufCap) (hh : hlen ≤ out.length) : BuffersFit (putOutput out hlen s) where
  ibufCanonical := h.ibufCanonical
  obufCanonical := Memory.writeFrom_wf h.obufCanonical 0 out
  outputFits := by
    rw [putOutput_olen, BitVec.toNat_ofNat]
    exact (Nat.mod_le _ _).trans hout
  hrpInOutput := by
    have hcap : out.length ≤ 128 := hout
    rw [putOutput_olen, putOutput_hlenOut, BitVec.le_def, BitVec.toNat_ofNat, BitVec.toNat_ofNat]
    omega

/-- An error's completion (44_control R231). -/
theorem inv_completeErr {s : State} (h : BuffersFit s) (e : ErrKind) : Inv (completeErr e s) where
  ibufCanonical := h.ibufCanonical
  obufCanonical := h.obufCanonical
  errcodeLegal := (errCode_range e).2
  errHasCode := by simp [(errCode_range e).1]
  encLegal := by simp
  errHasNoTag := by simp
  absentIsEmpty := by simp
  busyNotDone := by simp
  outputFits := h.outputFits
  hrpInOutput := h.hrpInOutput

/-- A success's completion (44_control R231). -/
theorem inv_completeOk {s : State} (h : BuffersFit s) {k : Option Variant} {a : Bool}
    (ha : a = true → k = none ∧ s.olen = 0#16 ∧ s.hlenOut = 0#16) : Inv (completeOk k a s) where
  ibufCanonical := h.ibufCanonical
  obufCanonical := h.obufCanonical
  errcodeLegal := by simp
  errHasCode := by simp
  encLegal := encCode_ne_three k
  errHasNoTag := by simp
  absentIsEmpty := by
    intro h
    obtain ⟨rfl, ho, hh⟩ := ha h
    exact ⟨rfl, rfl, ho, hh⟩
  busyNotDone := by simp
  outputFits := h.outputFits
  hrpInOutput := h.hrpInOutput

/-- What a finishing command stages keeps the buffers canonical and the output within OBUF. -/
theorem Staged.buffersFit {s : State} {i : Instr} {f : Finish} (hf : Staged s i f) (h : BuffersFit s) :
    BuffersFit f.staged := by
  cases hf with
  | nop | verify => exact h
  | chk | csum | result => exact { h with }
  | stripAbsent => exact buffersFit_clearOutput h
  | stripOutput _ out hout => exact buffersFit_putOutput h hout (Nat.zero_le _)
  | codec _ out hlen k hout hh => exact buffersFit_putOutput h hout hh

/-- Only the absent STRIP finishes as absent, without a tag and with nothing put out (10_state R49). -/
theorem Staged.absent_isEmpty {s : State} {i : Instr} {f : Finish} (hf : Staged s i f) (ha : f.absent = true) :
    f.enc = none ∧ f.staged.olen = 0#16 ∧ f.staged.hlenOut = 0#16 := by
  cases hf with
  | stripAbsent => exact ⟨rfl, rfl, rfl⟩
  | _ => cases ha

/-- Every command ends in the invariant. -/
theorem inv_of_exec {i : Instr} {s t : State} (h : BuffersFit s) (ht : exec i s = .next t) : Inv t := by
  obtain ⟨e, -, rfl⟩ | ⟨f, -, hf, rfl⟩ := exec_next_cases ht
  · refine inv_completeErr ?_ e
    split
    · exact buffersFit_clearOutput h
    · exact h
  · exact inv_completeOk (hf.buffersFit h) hf.absent_isEmpty

/-- The model's own fields of the outside are no part of the invariant. -/
theorem inv_setOutside {s : State} (h : Inv s) (ts : List Turn) (w : Word) : Inv { s with turns := ts, rdata := w } :=
  { h with }

theorem inv_reset : Inv State.reset := by
  constructor <;> decide

theorem inv_resetBlock (s : State) : Inv (resetBlock s) := inv_setOutside inv_reset s.turns s.rdata

theorem inv_popTurn {s : State} (h : Inv s) : Inv (popTurn s) := inv_setOutside h _ _

theorem inv_hostPoll {s : State} (h : Inv s) : Inv (hostPoll s) := by
  unfold hostPoll
  split <;> exact inv_setOutside h _ _

theorem inv_writeIdle {s : State} (h : Inv s) (v : Word) (r : WindowReg) : Inv (writeIdle v s r) := by
  cases r with
  | cmd => exact { h with busyNotDone := fun _ => rfl }
  | status =>
    have hdone (hb : busy s = true) : (writeStatus v s).done = false := by simp [h.busyNotDone hb]
    exact { h with busyNotDone := hdone }
  | ibuf i => exact { h with ibufCanonical := Memory.write_wf h.ibufCanonical i _ }
  | _ => exact { h with }

theorem inv_writeReg {s : State} (h : Inv s) (v : Word) (r : WindowReg) : Inv (writeReg v s r) := by
  obtain ⟨-, hw⟩ | ⟨-, -, hw⟩ | ⟨-, -, hw⟩ := writeReg_cases v s r <;> rw [hw]
  · unfold writeCtrl
    split
    · exact inv_resetBlock s
    · exact { h with }
  · exact { h with }
  · exact inv_writeIdle h v r

theorem inv_of_hostWrite {s t : State} (h : Inv s) {addr size : Nat} {v : Word}
    (ht : hostWrite addr size v s = .next t) : Inv t := by
  unfold hostWrite memWrite at ht
  split at ht
  · next u hu =>
    cases ht
    obtain ⟨r, -, rfl⟩ := Option.map_eq_some_iff.1 hu
    exact inv_writeReg h v r
  · cases ht

theorem inv_of_hostRead {s t : State} (h : Inv s) {addr size : Nat} (ht : hostRead addr size s = .next t) : Inv t := by
  unfold hostRead at ht
  split at ht
  · cases ht; exact inv_setOutside h _ _
  · cases ht

theorem inv_of_hostTurn {s t : State} (h : Inv s) {a : HostAction} (ht : hostTurn s a = .next t) : Inv t := by
  cases a with
  | read addr size => exact inv_of_hostRead h ht
  | write addr size v => exact inv_of_hostWrite h ht
  | writeBack addr => exact inv_of_hostWrite h ht
  | wait => cases ht; exact inv_hostPoll h
  | resetPin => cases ht; exact inv_resetBlock s

/-- Settles O55, by the four things a step can be. -/
theorem everyStepKeepsTheInvariant : Obligations.EveryStepKeepsTheInvariant := by
  intro s t h ht
  have hp : Inv (popTurn s) := inv_popTurn h
  obtain ⟨a, -, hs⟩ | ⟨-, -, hs⟩ | ⟨w, i, -, -, -, hs⟩ | ⟨w, r, -, -, -, hs⟩ := step_cases s <;> rw [hs] at ht
  · exact inv_of_hostTurn hp ht
  · cases ht; exact hp
  · exact inv_of_exec hp.buffersFit ht
  · cases ht; exact inv_completeErr hp.buffersFit _

end Sys2Proof.Machine
end

section
/-! PROOFS. Rules over all commands, from what a command stages: the results' writers (O34), OABSENT (O36) and ENC (O37). -/

namespace Sys2Proof.Machine

theorem clearsOutput_eq_true {i : Instr} :
    clearsOutput i = true ↔ i = .strip ∨ (∃ k, i = .encode k) ∨ i = .decode := by
  cases i <;> simp [clearsOutput]

/-- Settles O34: an error writes OLEN and HLEN_OUT of STRIP, ENCODE and DECODE alone, and a success what `Staged` lists. -/
theorem eachResultHasItsWriters : Obligations.EachResultHasItsWriters := by
  intro i s t ht
  obtain ⟨e, -, rfl⟩ | ⟨f, -, hf, rfl⟩ := exec_next_cases ht
  · rw [← clearsOutput_eq_true]
    cases hc : clearsOutput i <;> simp
  · cases hf with
    | nop | verify | csum | stripAbsent | stripOutput => simp
    | chk hi | result hi | codec hi => simp [hi]

/-- STRIP of the absent input finishes, as absent (41_charset R148). -/
theorem bodyOf_strip_absent {s : State} (ha : s.iabsent = true) :
    bodyOf .strip s = finishAbsent (clearOutput s) none := by
  show stripBody s = _
  rw [stripBody, if_pos ha]

/-- Only STRIP of the absent input finishes as absent (10_state R49). -/
theorem Staged.absent_iff {s : State} {i : Instr} {f : Finish} (hf : Staged s i f) :
    f.absent = true ↔ i = .strip ∧ s.iabsent = true := by
  cases hf with
  | stripAbsent ha => simp [ha]
  | stripOutput ha => simp [ha]
  | chk hi => rcases hi with rfl | ⟨v, rfl⟩ | rfl | rfl <;> simp
  | result hi => rcases hi with rfl | ⟨c, rfl⟩ | ⟨v, rfl⟩ <;> simp
  | codec hi => rcases hi with ⟨k, rfl⟩ | rfl <;> simp
  | _ => simp

/-- Settles O36: an error writes 0, and the absent STRIP is no error; a success writes what its body finished with. -/
theorem absentFlagOnlyAfterStrip : Obligations.AbsentFlagOnlyAfterStrip := by
  refine ⟨fun i s t ht => ?_, fun s t ht => by cases ht; rfl⟩
  obtain ⟨e, he, rfl⟩ | ⟨f, -, hf, rfl⟩ := exec_next_cases ht
  · refine iff_of_false (by simp) ?_
    rintro ⟨rfl, ha⟩
    rw [bodyOf_strip_absent ha] at he
    cases he
  · exact hf.absent_iff

theorem encCode_eq_zero {k : Option Variant} : encCode k = 0#2 ↔ k = none := by
  rcases k with _ | _ | _ <;> decide

/-- A body finishes with a tag exactly in the three verifying commands (10_state R48). -/
theorem Staged.enc_ne_none_iff {s : State} {i : Instr} {f : Finish} (hf : Staged s i f) :
    f.enc ≠ none ↔ i = .chkVerify ∨ (∃ k, i = .encode k) ∨ i = .decode := by
  cases hf with
  | codec hi => simp [hi]
  | chk hi => rcases hi with rfl | ⟨v, rfl⟩ | rfl | rfl <;> simp
  | result hi => rcases hi with rfl | ⟨c, rfl⟩ | ⟨v, rfl⟩ <;> simp
  | _ => simp

/-- Settles O37: an error leaves no tag, and a success the code of the tag its body finished with. -/
theorem tagOnlyAfterVerifyingCommands : Obligations.TagOnlyAfterVerifyingCommands := by
  intro i s t ht
  obtain ⟨e, -, rfl⟩ | ⟨f, -, hf, rfl⟩ := exec_next_cases ht
  · simp
  · have htag : encCode f.enc ≠ 0#2 ↔ _ := encCode_eq_zero.not.trans hf.enc_ne_none_iff
    exact ⟨encCode_ne_three _, fun h => ⟨rfl, htag.1 h⟩, fun _ h => htag.2 h⟩

end Sys2Proof.Machine
end

section
/-! PROOFS. CHK and CSUM are no operands of the codec's commands (O39): such a command's body is the same body with the two
registers changed in what it stages. -/

namespace Sys2Proof.Machine

/-- CHK and CSUM replaced. -/
def withAccumulator (c d : Chk) (s : State) : State := { s with chk := c, csum := d }

/-- CHK and CSUM replaced in what a body stages. -/
def stageAccumulator (c d : Chk) (b : Body) : Body :=
  b.map fun f => { f with staged := withAccumulator c d f.staged }

/-- Completion writes neither CHK nor CSUM, and depends on neither (44_control R231). -/
theorem complete_stageAccumulator (clears : Bool) (c d : Chk) (s : State) (b : Body) :
    complete clears (withAccumulator c d s) (stageAccumulator c d b) =
      withAccumulator c d (complete clears s b) := by
  cases b with
  | ok f => rfl
  | error e => cases clears <;> rfl

section
variable (c d : Chk) (s : State)

@[simp] theorem inputLen_withAccumulator : inputLen (withAccumulator c d s) = inputLen s := rfl

@[simp] theorem withAccumulator_hlenIn : (withAccumulator c d s).hlenIn = s.hlenIn := rfl

@[simp] theorem inputRange_withAccumulator (a b : Nat) : inputRange (withAccumulator c d s) a b = inputRange s a b := rfl

@[simp] theorem inputSeq_withAccumulator : inputSeq (withAccumulator c d s) = inputSeq s := rfl

theorem validateBody_withAccumulator :
    validateBody (withAccumulator c d s) = stageAccumulator c d (validateBody s) := by
  simp only [validateBody, apply_ite (stageAccumulator c d), inputSeq_withAccumulator]
  cases structural (inputSeq s) <;> rfl

theorem mapDecBody_withAccumulator (a : Byte) :
    mapDecBody a (withAccumulator c d s) = stageAccumulator c d (mapDecBody a s) := by
  unfold mapDecBody
  cases mapDec a <;> rfl

theorem mapEncBody_withAccumulator (a : Byte) :
    mapEncBody a (withAccumulator c d s) = stageAccumulator c d (mapEncBody a s) := by
  unfold mapEncBody
  cases mapEnc a <;> rfl

theorem stripBody_withAccumulator :
    stripBody (withAccumulator c d s) = stageAccumulator c d (stripBody s) := by
  simp only [stripBody, apply_ite (stageAccumulator c d)]
  rfl

theorem decodeBody_withAccumulator :
    decodeBody (withAccumulator c d s) = stageAccumulator c d (decodeBody s) := by
  simp only [decodeBody, apply_ite (stageAccumulator c d), inputSeq_withAccumulator]
  cases decodeString (inputSeq s) <;> rfl

theorem encodeBody_withAccumulator (k : Variant) :
    encodeBody k (withAccumulator c d s) = stageAccumulator c d (encodeBody k s) := by
  simp only [encodeBody, apply_ite (stageAccumulator c d), inputRange_withAccumulator,
    inputLen_withAccumulator, withAccumulator_hlenIn]
  cases encodeString (inputRange s 0 s.hlenIn.toNat) (inputRange s s.hlenIn.toNat (inputLen s)) k <;> rfl

end

/-- Settles O39: the body of each of the seven commands is the same with CHK and CSUM changed, and so is its completion. -/
theorem codecCommandsIgnoreTheAccumulator : Obligations.CodecCommandsIgnoreTheAccumulator := by
  intro i s t c d ht hinit hstep hhrp hdata hfinal hverify
  have hbody : bodyOf i (withAccumulator c d s) = stageAccumulator c d (bodyOf i s) := by
    cases i with
    | nop => rfl
    | validate => exact validateBody_withAccumulator c d s
    | mapDec a => exact mapDecBody_withAccumulator c d s a
    | mapEnc a => exact mapEncBody_withAccumulator c d s a
    | strip => exact stripBody_withAccumulator c d s
    | encode k => exact encodeBody_withAccumulator c d s k
    | decode => exact decodeBody_withAccumulator c d s
    | chkInit => exact absurd rfl hinit
    | chkStep v => exact absurd rfl (hstep v)
    | chkHrp => exact absurd rfl hhrp
    | chkData => exact absurd rfl hdata
    | chkFinal k => exact absurd rfl (hfinal k)
    | chkVerify => exact absurd rfl hverify
  obtain rfl := exec_next_iff.1 ht
  refine exec_next_iff.2 ?_
  show withAccumulator c d _ = complete _ (withAccumulator c d s) (bodyOf i (withAccumulator c d s))
  rw [hbody, complete_stageAccumulator]

end Sys2Proof.Machine
end

section
/-! PROOFS. The window's words (O45, O46): what stands at an offset, over the numbers. -/

namespace Sys2Proof.Machine

/-- Concatenation over the numbers: the upper part is shifted past the lower one. -/
theorem toNat_append_eq_add {m n : Nat} (x : BitVec m) (y : BitVec n) : (x ++ y).toNat = x.toNat * 2 ^ n + y.toNat := by
  rw [BitVec.toNat_append, ← Nat.shiftLeft_add_eq_or_of_lt y.isLt, Nat.shiftLeft_eq]

/-- STATUS, each field at its place (10_state R43). -/
theorem statusWord_toNat (s : State) : (statusWord s).toNat =
    (busy s).toNat + 2 * s.done.toNat + 4 * s.err.toNat + 8 * s.ovr.toNat + 16 * s.errcode.toNat +
      512 * s.enc.toNat + 2048 * s.oabsent.toNat := by
  simp only [statusWord, toNat_append_eq_add, BitVec.toNat_ofBool, BitVec.toNat_ofNat]
  omega

/-- CTRL: IRQ_EN at bit 1, and SRST reads 0 (10_state R41). -/
theorem ctrlWord_toNat (s : State) : (ctrlWord s).toNat = 2 * s.irqEn.toNat := by
  simp only [ctrlWord, toNat_append_eq_add, BitVec.toNat_ofBool, BitVec.toNat_ofNat]
  omega

theorem memRead_base_add (s : State) {off : Nat} (h : off < 0x1000) (ha : off % 4 = 0) :
    memRead s (Config.base + off) 4 = some (readReg s (regAt off)) := by
  rw [memRead, accessReg_base_add h ha, Option.map_some]

theorem memWrite_base_add (s : State) (v : Word) {off : Nat} (h : off < 0x1000) (ha : off % 4 = 0) :
    memWrite s (Config.base + off) 4 v = some (writeReg v s (regAt off)) := by
  rw [memWrite, accessReg_base_add h ha, Option.map_some]

/-- Settles O45: CMD, which reads 0 as the reserved offsets do, apart; then the window's map, offset by offset. -/
theorem windowReadByOffset : Obligations.WindowReadByOffset := by
  intro s off h ha
  rw [memRead_base_add s h ha, Option.map_some]
  congr 1
  by_cases hcmd : off = 0x008
  · subst hcmd; rfl
  · simp only [regAt, if_neg hcmd, apply_ite (readReg s), apply_ite BitVec.toNat]
    simp only [readReg, statusWord_toNat, ctrlWord_toNat, BitVec.toNat_ofBool,
      BitVec.toNat_setWidth_of_le (show 30 ≤ 32 by decide), BitVec.toNat_setWidth_of_le (show 16 ≤ 32 by decide),
      BitVec.toNat_setWidth_of_le (show 8 ≤ 32 by decide), BitVec.toNat_setWidth_of_le (show 1 ≤ 32 by decide)]
    rfl

theorem memRead_ibuf (s : State) {i : Nat} (hi : i < 128) :
    memRead s (Config.base + 0x200 + 4 * i) 4 = some ((s.ibuf.read i).setWidth 32) := by
  rw [Nat.add_assoc, memRead_base_add s (by omega) (by omega), regAt_ibuf (by omega) (by omega),
    show (0x200 + 4 * i - 0x200) / 4 = i by omega]
  rfl

theorem memRead_obuf (s : State) {i : Nat} (hi : i < 128) :
    memRead s (Config.base + 0x400 + 4 * i) 4 = some ((s.obuf.read i).setWidth 32) := by
  rw [Nat.add_assoc, memRead_base_add s (by omega) (by omega), regAt_obuf (by omega) (by omega),
    show (0x400 + 4 * i - 0x400) / 4 = i by omega]
  rfl

theorem memWrite_ibuf {s : State} (hb : busy s = false) (v : Word) {i : Nat} (hi : i < 128) :
    memWrite s (Config.base + 0x200 + 4 * i) 4 v = some { s with ibuf := s.ibuf.write i (v.setWidth 8) } := by
  rw [Nat.add_assoc, memWrite_base_add s v (by omega) (by omega), regAt_ibuf (by omega) (by omega),
    show (0x200 + 4 * i - 0x200) / 4 = i by omega]
  simp [writeReg, writeIdle, hb]

/-- Settles O46, by the buffer's read-after-write law. -/
theorem inputEntryReadsBack : Obligations.InputEntryReadsBack := by
  intro s i v hm hb hi
  refine ⟨_, memWrite_ibuf hb v hi, ?_, fun j hj hji => ?_, fun j hj => ?_⟩
  · rw [memRead_ibuf _ hi, Memory.read_write hm hi, if_pos rfl, BitVec.setWidth_eq_extractLsb' (v := 32) (by decide)]
  · rw [memRead_ibuf _ hj, memRead_ibuf _ hj, Memory.read_write hm hi, if_neg (Ne.symm hji)]
  · rw [memRead_obuf _ hj, memRead_obuf _ hj]

end Sys2Proof.Machine
end

section
/-! PROOFS. The canonical form is unique (O60). -/

namespace Sys2Proof.Machine

/-- The canonical form of a list with a first entry: it is below every other index, listed, and the rest is canonical. -/
theorem Memory.wf_cons {k : Nat} {v : Byte} {m : Memory} :
    Memory.wf ((k, v) :: m) = true ↔ (∀ c ∈ m, k < c.1) ∧ (k < Config.ibufCap ∧ v ≠ unlistedByte) ∧ m.wf = true := by
  simp only [Memory.wf_iff, List.pairwise_cons, List.forall_mem_cons]
  tauto

/-- The first index of a canonical list does not read as an unlisted one. -/
theorem Memory.read_ne_unlisted_head {k : Nat} {v : Byte} {m : Memory} (h : Memory.wf ((k, v) :: m) = true) :
    Memory.read ((k, v) :: m) k ≠ unlistedByte := by
  obtain ⟨-, ⟨-, hv⟩, -⟩ := Memory.wf_cons.1 h
  rwa [Memory.read_cons, if_pos rfl]

/-- No index below the first one reads as listed. -/
theorem Memory.head_le_of_read_ne {k i : Nat} {v : Byte} {m : Memory} (h : Memory.wf ((k, v) :: m) = true)
    (hi : Memory.read ((k, v) :: m) i ≠ unlistedByte) : k ≤ i := by
  obtain ⟨hlt, -, -⟩ := Memory.wf_cons.1 h
  by_contra hik
  refine hi (Memory.read_of_lt (List.forall_mem_cons.2 ⟨by simpa using hik, fun c hc => ?_⟩))
  exact Nat.lt_trans (Nat.lt_of_not_le hik) (hlt c hc)

/-- The rest of a canonical list reads as the list, but for the first entry, which it does not list. -/
theorem Memory.read_tail {k : Nat} {v : Byte} {m : Memory} (h : Memory.wf ((k, v) :: m) = true) (i : Nat) :
    m.read i = if k = i then unlistedByte else Memory.read ((k, v) :: m) i := by
  obtain ⟨hlt, -, -⟩ := Memory.wf_cons.1 h
  split
  · next hki => subst hki; exact Memory.read_of_lt hlt
  · next hki => rw [Memory.read_cons, if_neg hki]

/-- Settles O60, by induction over the two lists: equal readings force equal first entries and equal readings of the rest. -/
theorem canonicalBuffersAreEqualWhenTheyReadEqual : Obligations.CanonicalBuffersAreEqualWhenTheyReadEqual := by
  intro m₁
  induction m₁ with
  | nil =>
    rintro (_ | ⟨⟨k, v⟩, m⟩) - h₂ hread
    · rfl
    · exact absurd (hread k).symm (Memory.read_ne_unlisted_head h₂)
  | cons c₁ m₁ ih =>
    obtain ⟨k₁, v₁⟩ := c₁
    rintro (_ | ⟨⟨k₂, v₂⟩, m₂⟩) h₁ h₂ hread
    · exact absurd (hread k₁) (Memory.read_ne_unlisted_head h₁)
    · have hk : k₁ = k₂ := Nat.le_antisymm
        (Memory.head_le_of_read_ne h₁ (hread k₂ ▸ Memory.read_ne_unlisted_head h₂))
        (Memory.head_le_of_read_ne h₂ (hread k₁ ▸ Memory.read_ne_unlisted_head h₁))
      subst hk
      have hv : v₁ = v₂ := by simpa [Memory.read_cons] using hread k₁
      subst hv
      obtain ⟨-, -, hm₁⟩ := Memory.wf_cons.1 h₁
      obtain ⟨-, -, hm₂⟩ := Memory.wf_cons.1 h₂
      rw [ih m₂ hm₁ hm₂ fun i => by rw [Memory.read_tail h₁, Memory.read_tail h₂, hread]]

end Sys2Proof.Machine
end

section
/-! PROOFS. The byte decoder (O3): a word's lanes, joined again, are the word. -/

namespace Sys2Proof

/-- Settles O3: the four lanes are adjacent slices of the word, and the decoder has one pattern, of length four. -/
theorem bytesDecodeAsTheirWord : Obligations.BytesDecodeAsTheirWord := by
  refine ⟨fun w => ?_, fun bs hlen => ?_⟩
  · have hjoin : w.extractLsb' 24 8 ++ w.extractLsb' 16 8 ++ w.extractLsb' 8 8 ++ w.extractLsb' 0 8 = w := by
      rw [BitVec.extractLsb'_append_extractLsb'_eq_extractLsb' (show 24 = 16 + 8 by rfl),
        BitVec.extractLsb'_append_extractLsb'_eq_extractLsb' (show 16 = 8 + 8 by rfl),
        BitVec.extractLsb'_append_extractLsb'_eq_extractLsb' (show 8 = 0 + 8 by rfl)]
      exact BitVec.extractLsb'_eq_self
    exact congrArg decodeCmd hjoin
  · match bs, hlen with
    | [], _ | [_], _ | [_, _], _ | [_, _, _], _ | _ :: _ :: _ :: _ :: _ :: _, _ => rfl
    | [_, _, _, _], h => exact absurd rfl h

end Sys2Proof
end

section
/-! PROOFS. Writes to the window, offset by offset (O44). -/

namespace Sys2Proof.Machine

/-- The map past the named registers: the two buffers, and nothing else (20_memory R72). -/
theorem regAt_past_registers {off : Nat} (h : 0x030 ≤ off) :
    regAt off = if 0x200 ≤ off ∧ off < 0x400 then .ibuf ((off - 0x200) / 4)
      else if 0x400 ≤ off ∧ off < 0x600 then .obuf ((off - 0x400) / 4) else .reserved := by
  unfold regAt
  iterate 12 rw [if_neg (by omega)]

/-- CTRL stands at its own offset and at no other (10_state R39). -/
theorem regAt_eq_ctrl {off : Nat} : regAt off = .ctrl ↔ off = 0x004 := by
  constructor
  · rcases Nat.lt_or_ge off 0x030 with hlow | hhigh
    · revert off; decide
    · rw [regAt_past_registers hhigh]; split_ifs <;> simp
  · rintro rfl; rfl

/-- DONE and OVR are cleared by a 1 and kept by a 0 (10_state R43). -/
theorem writeStatus_eq (v : Word) (s : State) : writeStatus v s =
    { s with done := if v.getLsbD 1 = true then false else s.done, ovr := if v.getLsbD 3 = true then false else s.ovr } := by
  unfold writeStatus
  cases v.getLsbD 1 <;> cases v.getLsbD 3 <;> simp

/-- A write that is not dropped, other than to CTRL, by offset: the twelve named registers one by one, then the buffers. -/
theorem writeIdle_regAt (v : Word) (s : State) {off : Nat} (ha : off % 4 = 0) :
    writeIdle v s (regAt off) =
      if off = 0x008 then issue v s
      else if off = 0x00C then writeStatus v s
      else if off = 0x010 then { s with chk := v.setWidth 30 }
      else if off = 0x018 then { s with ilen := v.setWidth 16 }
      else if off = 0x01C then { s with iabsent := v.getLsbD 0 }
      else if off = 0x020 then { s with hlenIn := v.setWidth 16 }
      else if 0x200 ≤ off ∧ off < 0x400 then { s with ibuf := s.ibuf.write ((off - 0x200) / 4) (v.setWidth 8) }
      else s := by
  rcases Nat.lt_or_ge off 0x030 with hlow | hhigh
  · obtain ⟨k, rfl⟩ := Nat.dvd_of_mod_eq_zero ha
    have hk : k < 12 := by omega
    interval_cases k <;> rfl
  · iterate 6 rw [if_neg (by omega)]
    rw [regAt_past_registers hhigh, apply_ite (writeIdle v s), apply_ite (writeIdle v s)]
    simp only [writeIdle, ite_self]

/-- Settles O44, by what stands at the offset and whether a command is pending. -/
theorem windowWriteByOffset : Obligations.WindowWriteByOffset := by
  intro s off v h ha
  rw [memWrite_base_add s v h ha, ← writeStatus_eq]
  congr 1
  obtain ⟨hr, hw⟩ | ⟨hr, hb, hw⟩ | ⟨hr, hb, hw⟩ := writeReg_cases v s (regAt off)
  · rw [hw, if_pos (regAt_eq_ctrl.1 hr)]; rfl
  · rw [hw, if_neg (mt regAt_eq_ctrl.2 hr), if_pos hb]; rfl
  · rw [hw, if_neg (mt regAt_eq_ctrl.2 hr), if_neg (by simp [hb]), writeIdle_regAt v s ha]; rfl

end Sys2Proof.Machine
end

section
/-! PROOFS. Host accesses as turns (O47, O48): which ones fault, and what a read turn leaves. -/

namespace Sys2Proof.Machine

/-- An access reaches a word exactly when it is an aligned word of the window (20_memory R73, R74, R80). -/
theorem accessReg_eq_none {addr size : Nat} : accessReg addr size = none ↔
    ¬(size = 4 ∧ Config.base ≤ addr ∧ addr < Config.base + 0x1000 ∧ (addr - Config.base) % 4 = 0) := by
  constructor
  · rintro hnone ⟨rfl, hlow, hhigh, ha⟩
    have hsome := accessReg_base_add (off := addr - Config.base) (by omega) ha
    rw [Nat.add_sub_cancel' hlow, hnone] at hsome
    cases hsome
  · intro hno
    refine Option.eq_none_iff_forall_ne_some.2 fun r hr => hno ?_
    obtain ⟨hsize, hlow, hhigh, ha, -⟩ := accessReg_eq_some hr
    exact ⟨hsize, hlow, hhigh, ha⟩

theorem memRead_eq_none {s : State} {addr size : Nat} : memRead s addr size = none ↔ accessReg addr size = none :=
  Option.map_eq_none_iff

theorem memWrite_eq_none {s : State} {addr size : Nat} {v : Word} :
    memWrite s addr size v = none ↔ accessReg addr size = none :=
  Option.map_eq_none_iff

theorem hostRead_of_accessReg {s : State} {addr size : Nat} {r : WindowReg} (h : accessReg addr size = some r) :
    hostRead addr size s = .next { s with rdata := readReg s r } := by
  simp [hostRead, memRead, h]

theorem hostWrite_of_accessReg {s : State} {addr size : Nat} {v : Word} {r : WindowReg}
    (h : accessReg addr size = some r) : hostWrite addr size v s = .next (writeReg v s r) := by
  simp [hostWrite, memWrite, h]

theorem hostRead_of_accessReg_none {s : State} {addr size : Nat} (h : accessReg addr size = none) :
    hostRead addr size s = .fault .busError := by
  simp [hostRead, memRead, h]

theorem hostWrite_of_accessReg_none {s : State} {addr size : Nat} {v : Word} (h : accessReg addr size = none) :
    hostWrite addr size v s = .fault .busError := by
  simp [hostWrite, memWrite, h]

/-- A correct host action has a next state (60_exceptions R246). -/
theorem hostTurn_of_correct (s : State) {a : HostAction} (h : a.correct = true) : ∃ t, hostTurn s a = .next t := by
  cases a with
  | read => obtain ⟨r, hr⟩ := Option.isSome_iff_exists.1 h; exact ⟨_, hostRead_of_accessReg hr⟩
  | write | writeBack => obtain ⟨r, hr⟩ := Option.isSome_iff_exists.1 h; exact ⟨_, hostWrite_of_accessReg hr⟩
  | wait | resetPin => exact ⟨_, rfl⟩

/-- A host action that is not correct stops the machine (20_memory R74, 60_exceptions R246). -/
theorem hostTurn_of_not_correct (s : State) {a : HostAction} (h : a.correct = false) :
    hostTurn s a = .fault .busError := by
  cases a with
  | read => exact hostRead_of_accessReg_none (Option.isNone_iff_eq_none.1 (Option.isSome_eq_false_iff.1 h))
  | write | writeBack =>
    exact hostWrite_of_accessReg_none (Option.isNone_iff_eq_none.1 (Option.isSome_eq_false_iff.1 h))
  | wait | resetPin => cases h

/-- With a host action listed next, the step is its turn, on the state with the rest of the turns (10_state R30). -/
theorem step_of_hostTurn_next {s : State} {a : HostAction} {rest : List Turn} (h : s.turns = .host a :: rest) :
    step s = hostTurn { s with turns := rest } a := by
  simp [step, nextTurn, popTurn, h]

/-- The host moves only when one of its actions is listed next (log 1). -/
theorem turns_of_nextTurn_host {s : State} {a : HostAction} (h : nextTurn s = .host a) :
    ∃ rest, s.turns = .host a :: rest := by
  unfold nextTurn at h
  cases hts : s.turns with
  | nil => rw [hts] at h; cases h
  | cons t rest => rw [hts] at h; cases h; exact ⟨rest, rfl⟩

/-- A step without a next state is the bus error of the host action listed next. -/
theorem step_fault_of_no_next {s : State} (hstop : ∀ t, step s ≠ .next t) :
    step s = .fault .busError ∧ ∃ a rest, s.turns = .host a :: rest ∧ a.correct = false := by
  obtain ⟨a, hn, hs⟩ | ⟨-, -, hs⟩ | ⟨w, i, -, -, -, hs⟩ | ⟨w, r, -, -, -, hs⟩ := step_cases s
  · obtain ⟨rest, hts⟩ := turns_of_nextTurn_host hn
    cases hc : a.correct with
    | true =>
      obtain ⟨t, ht⟩ := hostTurn_of_correct (popTurn s) hc
      exact absurd (hs.trans ht) (hstop t)
    | false => exact ⟨hs.trans (hostTurn_of_not_correct _ hc), a, rest, hts, hc⟩
  · exact absurd hs (hstop _)
  · exact absurd (hs.trans (exec_eq_next i _)) (hstop _)
  · exact absurd hs (hstop _)

/-- Settles O47: an access faults where no word is reached, and every turn but such a host access has a next state. -/
theorem onlyMalformedAccessesFault : Obligations.OnlyMalformedAccessesFault := by
  refine ⟨fun s addr size v => ⟨?_, ?_⟩, fun s hstop => step_fault_of_no_next hstop, fun s a rest hts hc => ?_⟩
  · exact memRead_eq_none.trans accessReg_eq_none
  · rw [memWrite_eq_none, memRead_eq_none]
  · rw [step_of_hostTurn_next hts, hostTurn_of_not_correct _ hc]

/-- A word of the window depends on neither of the model's own fields of the outside (log 1, log 5). -/
theorem readReg_setOutside (s : State) (ts : List Turn) (w : Word) (r : WindowReg) :
    readReg { s with turns := ts, rdata := w } r = readReg s r := by
  cases r <;> rfl

/-- Settles O48: the read's turn is `hostRead` of the word at the offset, which `rdata` is no part of. -/
theorem readTurnChangesNothing : Obligations.ReadTurnChangesNothing := by
  intro s off rest h ha hts
  refine ⟨readReg s (regAt off), memRead_base_add s h ha, ?_, ?_⟩
  · rw [step_of_hostTurn_next hts]
    show hostRead _ _ _ = _
    rw [hostRead_of_accessReg (accessReg_base_add h ha), readReg_setOutside s rest s.rdata]
  · rw [memRead_base_add _ h ha, readReg_setOutside]

end Sys2Proof.Machine
end

section
/-! PROOFS. What no command reads (O38, O50): the entries of IBUF that are no input, and OVR. A command's body is the same
body with the two changed in what it stages, and no command writes either. -/

namespace Sys2Proof.Machine

/-- IBUF and OVR replaced. -/
def withInputAndOvr (m : Memory) (o : Bool) (s : State) : State := { s with ibuf := m, ovr := o }

/-- IBUF and OVR replaced in what a body stages. -/
def stageInputAndOvr (m : Memory) (o : Bool) (b : Body) : Body :=
  b.map fun f => { f with staged := withInputAndOvr m o f.staged }

/-- The buffer presents the input the state presents: no input at all, or the same entries below ILEN (20_memory R87). -/
def SameInput (m : Memory) (s : State) : Prop :=
  s.iabsent = true ∨ ∀ a, a < s.ilen.toNat → m.read a = s.ibuf.read a

/-- Completion writes neither IBUF nor OVR, and depends on neither (44_control R231). -/
theorem complete_stageInputAndOvr (clears : Bool) (m : Memory) (o : Bool) (s : State) (b : Body) :
    complete clears (withInputAndOvr m o s) (stageInputAndOvr m o b) = withInputAndOvr m o (complete clears s b) := by
  cases b with
  | ok f => rfl
  | error e => cases clears <;> rfl

section
variable {m : Memory} {s : State} (o : Bool)

@[simp] theorem inputLen_withInputAndOvr : inputLen (withInputAndOvr m o s) = inputLen s := rfl

@[simp] theorem withInputAndOvr_iabsent : (withInputAndOvr m o s).iabsent = s.iabsent := rfl

@[simp] theorem withInputAndOvr_hlenIn : (withInputAndOvr m o s).hlenIn = s.hlenIn := rfl

/-- A range within the input is read from entries below ILEN alone. -/
theorem inputRange_withInputAndOvr (h : ∀ a, a < s.ilen.toNat → m.read a = s.ibuf.read a) (a : Nat) {b : Nat}
    (hb : b ≤ inputLen s) : inputRange (withInputAndOvr m o s) a b = inputRange s a b := by
  refine List.map_congr_left fun j hj => h j ?_
  obtain ⟨haj, hjb⟩ := List.mem_range'_1.1 hj
  show j < inputLen s
  omega

theorem inputSeq_withInputAndOvr (h : ∀ a, a < s.ilen.toNat → m.read a = s.ibuf.read a) :
    inputSeq (withInputAndOvr m o s) = inputSeq s :=
  inputRange_withInputAndOvr o h 0 le_rfl

theorem mapDecBody_withInputAndOvr (c : Byte) :
    mapDecBody c (withInputAndOvr m o s) = stageInputAndOvr m o (mapDecBody c s) := by
  unfold mapDecBody
  cases mapDec c <;> rfl

theorem mapEncBody_withInputAndOvr (v : Byte) :
    mapEncBody v (withInputAndOvr m o s) = stageInputAndOvr m o (mapEncBody v s) := by
  unfold mapEncBody
  cases mapEnc v <;> rfl

theorem chkStepBody_withInputAndOvr (v : Byte) :
    chkStepBody v (withInputAndOvr m o s) = stageInputAndOvr m o (chkStepBody v s) := by
  unfold chkStepBody
  cases asSym v <;> rfl

theorem chkVerifyBody_withInputAndOvr :
    chkVerifyBody (withInputAndOvr m o s) = stageInputAndOvr m o (chkVerifyBody s) := by
  simp only [chkVerifyBody, show (withInputAndOvr m o s).chk = s.chk from rfl]
  cases residueTag s.chk <;> rfl

variable (h : SameInput m s)
include h

theorem validateBody_withInputAndOvr :
    validateBody (withInputAndOvr m o s) = stageInputAndOvr m o (validateBody s) := by
  rcases h with ha | h
  · simp only [validateBody, withInputAndOvr_iabsent, ha, if_true]; rfl
  · simp only [validateBody, apply_ite (stageInputAndOvr m o), inputSeq_withInputAndOvr o h]
    cases structural (inputSeq s) <;> rfl

theorem stripBody_withInputAndOvr :
    stripBody (withInputAndOvr m o s) = stageInputAndOvr m o (stripBody s) := by
  rcases h with ha | h
  · simp only [stripBody, withInputAndOvr_iabsent, ha, if_true]; rfl
  · simp only [stripBody, apply_ite (stageInputAndOvr m o), inputSeq_withInputAndOvr o h]; rfl

theorem chkHrpBody_withInputAndOvr :
    chkHrpBody (withInputAndOvr m o s) = stageInputAndOvr m o (chkHrpBody s) := by
  rcases h with ha | h
  · simp only [chkHrpBody, withInputAndOvr_iabsent, ha, if_true]; rfl
  · simp only [chkHrpBody, apply_ite (stageInputAndOvr m o), inputSeq_withInputAndOvr o h]; rfl

theorem chkDataBody_withInputAndOvr :
    chkDataBody (withInputAndOvr m o s) = stageInputAndOvr m o (chkDataBody s) := by
  rcases h with ha | h
  · simp only [chkDataBody, withInputAndOvr_iabsent, ha, if_true]; rfl
  · simp only [chkDataBody, apply_ite (stageInputAndOvr m o), inputSeq_withInputAndOvr o h]
    cases asSyms (inputSeq s) <;> rfl

theorem decodeBody_withInputAndOvr :
    decodeBody (withInputAndOvr m o s) = stageInputAndOvr m o (decodeBody s) := by
  rcases h with ha | h
  · simp only [decodeBody, withInputAndOvr_iabsent, ha, if_true]; rfl
  · simp only [decodeBody, apply_ite (stageInputAndOvr m o), inputSeq_withInputAndOvr o h]
    cases decodeString (inputSeq s) <;> rfl

/-- ENCODE reads the HRP and the data only once HLEN_IN is known to lie within the input (43_codec R204, R206). -/
theorem encodeBody_withInputAndOvr (k : Variant) :
    encodeBody k (withInputAndOvr m o s) = stageInputAndOvr m o (encodeBody k s) := by
  rcases h with ha | h
  · simp only [encodeBody, withInputAndOvr_iabsent, ha, if_true]; rfl
  by_cases hlen : s.hlenIn.toNat > inputLen s
  · simp only [encodeBody, apply_ite (stageInputAndOvr m o), withInputAndOvr_hlenIn, inputLen_withInputAndOvr,
      hlen, if_true]
    rfl
  · simp only [encodeBody, apply_ite (stageInputAndOvr m o), withInputAndOvr_hlenIn, inputLen_withInputAndOvr,
      inputRange_withInputAndOvr o h _ (Nat.le_of_not_gt hlen), inputRange_withInputAndOvr o h _ le_rfl]
    cases encodeString (inputRange s 0 s.hlenIn.toNat) (inputRange s s.hlenIn.toNat (inputLen s)) k <;> rfl

/-- Each command's body depends on IBUF through the input alone, and not on OVR. -/
theorem bodyOf_withInputAndOvr (i : Instr) :
    bodyOf i (withInputAndOvr m o s) = stageInputAndOvr m o (bodyOf i s) := by
  cases i with
  | nop | chkInit | chkFinal => rfl
  | mapDec c => exact mapDecBody_withInputAndOvr o c
  | mapEnc v => exact mapEncBody_withInputAndOvr o v
  | chkStep v => exact chkStepBody_withInputAndOvr o v
  | chkVerify => exact chkVerifyBody_withInputAndOvr o
  | validate => exact validateBody_withInputAndOvr o h
  | strip => exact stripBody_withInputAndOvr o h
  | chkHrp => exact chkHrpBody_withInputAndOvr o h
  | chkData => exact chkDataBody_withInputAndOvr o h
  | encode k => exact encodeBody_withInputAndOvr o h k
  | decode => exact decodeBody_withInputAndOvr o h

/-- With a buffer of the same input, and any OVR, every command does the same, and leaves the two as they are. -/
theorem exec_withInputAndOvr {i : Instr} {t : State} (ht : exec i s = .next t) :
    exec i (withInputAndOvr m o s) = .next (withInputAndOvr m o t) := by
  obtain rfl := exec_next_iff.1 ht
  rw [exec_next_iff, bodyOf_withInputAndOvr o h, complete_stageInputAndOvr]

end

/-- No command writes IBUF or OVR (10_state R47, R58). -/
theorem exec_keeps_ibuf_ovr {i : Instr} {s t : State} (ht : exec i s = .next t) : t.ibuf = s.ibuf ∧ t.ovr = s.ovr := by
  obtain ⟨e, -, rfl⟩ | ⟨f, hf, -, rfl⟩ := exec_next_cases ht
  · cases clearsOutput i <;> exact ⟨rfl, rfl⟩
  · obtain ⟨_, _, _, _, _, _, hstaged⟩ := body_staged hf
    simp [hstaged]

/-- Settles O38: IBUF is replaced, and OVR by itself, which the command keeps. -/
theorem entriesBeyondTheInputAreNotRead : Obligations.EntriesBeyondTheInputAreNotRead := by
  intro i s t m ht h
  obtain ⟨-, hovr⟩ := exec_keeps_ibuf_ovr ht
  have hkept : withInputAndOvr m s.ovr t = { t with ibuf := m } := by rw [withInputAndOvr, ← hovr]
  exact (exec_withInputAndOvr s.ovr h ht).trans (congrArg _ hkept)

/-- Settles O50: the dropped write sets OVR alone, which no command reads. -/
theorem droppedWriteCannotChangeTheResult : Obligations.DroppedWriteCannotChangeTheResult := by
  intro i s t off v hb h ha hctrl ht
  have hdrop : writeReg v s (regAt off) = dropWrite s := by
    rw [writeReg, if_neg (mt regAt_eq_ctrl.1 hctrl), if_pos hb]
  refine ⟨dropWrite s, by rw [memWrite_base_add s v h ha, hdrop], ?_⟩
  obtain ⟨hibuf, -⟩ := exec_keeps_ibuf_ovr ht
  have hkept : withInputAndOvr s.ibuf true t = { t with ovr := true } := by rw [withInputAndOvr, ← hibuf]
  exact (exec_withInputAndOvr true (.inr fun _ _ => rfl) ht).trans (congrArg _ hkept)

end Sys2Proof.Machine
end

section
/-! PROOFS. The command word and its four fields (O1, O4): decoding reads back exactly the fields encoding puts in. -/

namespace Sys2Proof

/-- The word whose fields are the given ones (30_encoding R101 to R104). -/
def wordOfFields (rsv : BitVec 15) (sel : BitVec 1) (arg : Byte) (op : BitVec 8) : Word := rsv ++ sel ++ arg ++ op

section
variable (rsv : BitVec 15) (sel : BitVec 1) (arg : Byte) (op : BitVec 8)

@[simp] theorem opField_wordOfFields : opField (wordOfFields rsv sel arg op) = op :=
  BitVec.extractLsb'_append_eq_right

@[simp] theorem argField_wordOfFields : argField (wordOfFields rsv sel arg op) = arg := by
  rw [argField, wordOfFields, BitVec.extractLsb'_append_eq_of_le (by decide)]
  exact BitVec.extractLsb'_append_eq_right

@[simp] theorem selField_wordOfFields : selField (wordOfFields rsv sel arg op) = sel := by
  rw [selField, wordOfFields, BitVec.extractLsb'_append_eq_of_le (by decide),
    BitVec.extractLsb'_append_eq_of_le (by decide)]
  exact BitVec.extractLsb'_append_eq_right

end

/-- A word is its fields. -/
theorem wordOfFields_fields (w : Word) : wordOfFields (rsvField w) (selField w) (argField w) (opField w) = w := by
  unfold wordOfFields rsvField selField argField opField
  rw [BitVec.extractLsb'_append_extractLsb'_eq_extractLsb' (show 17 = 16 + 1 by rfl),
    BitVec.extractLsb'_append_extractLsb'_eq_extractLsb' (show 16 = 8 + 8 by rfl),
    BitVec.extractLsb'_append_extractLsb'_eq_extractLsb' (show 8 = 0 + 8 by rfl)]
  exact BitVec.extractLsb'_eq_self

/-- R111's command word has RSV = 0, and the three operands of the formula in their fields: bit by bit, the shifted operands
do not overlap. -/
theorem commandWord_eq_wordOfFields (op : BitVec 8) (arg : Byte) (sel : BitVec 1) :
    commandWord (op.setWidth 32) arg sel = wordOfFields 0#15 sel arg op := by
  unfold commandWord wordOfFields
  ext i hi
  grind

/-- The opcode of a command (30_encoding R105). -/
def opOf : Instr → BitVec 8
  | .nop        => 0x00#8
  | .validate   => 0x01#8
  | .mapDec _   => 0x02#8
  | .mapEnc _   => 0x03#8
  | .strip      => 0x04#8
  | .chkInit    => 0x05#8
  | .chkStep _  => 0x06#8
  | .chkHrp     => 0x07#8
  | .chkData    => 0x08#8
  | .chkFinal _ => 0x09#8
  | .chkVerify  => 0x0A#8
  | .encode _   => 0x0B#8
  | .decode     => 0x0C#8

/-- ARG of a command's word: 0 unless the command uses it (30_encoding R106). -/
def argOf : Instr → Byte
  | .mapDec a | .mapEnc a | .chkStep a => a
  | _ => 0#8

/-- SEL of a command's word: 0 unless the command uses it (30_encoding R106). -/
def selOf : Instr → BitVec 1
  | .chkFinal k | .encode k => variantSel k
  | _ => 0#1

theorem encode_eq_wordOfFields (i : Instr) : encode i = wordOfFields 0#15 (selOf i) (argOf i) (opOf i) := by
  rw [← commandWord_eq_wordOfFields]
  cases i <;> rfl

@[simp] theorem selVariant_variantSel (k : Variant) : selVariant (variantSel k) = k := by
  cases k <;> rfl

@[simp] theorem variantSel_selVariant (sel : BitVec 1) : variantSel (selVariant sel) = sel := by
  revert sel; decide

/-- The command of an instruction's own fields is the instruction. -/
theorem opInstr_fieldsOf (i : Instr) : opInstr (opOf i) (argOf i) (selOf i) = some i := by
  cases i with
  | chkFinal k | encode k => simp [opInstr, opOf, selOf]
  | _ => rfl

/-- With ARG and SEL used only where R106 uses them, the fields are those of the command they give. -/
theorem fields_eq_of_opInstr_eq_some {op : BitVec 8} {arg : Byte} {sel : BitVec 1} {i : Instr}
    (h : opInstr op arg sel = some i) (harg : arg = 0#8 ∨ op ∈ [0x02#8, 0x03#8, 0x06#8])
    (hsel : sel = 0#1 ∨ op ∈ [0x09#8, 0x0B#8]) : op = opOf i ∧ arg = argOf i ∧ sel = selOf i := by
  iterate 13
    rcases ite_eq_iff.1 h with ⟨rfl, ⟨⟩⟩ | ⟨-, h⟩
    · simpa [opOf, argOf, selOf] using And.intro harg hsel
  cases h

/-- The defined opcodes are those up to 0x0C (30_encoding R105). -/
theorem lt_of_opInstr_eq_none {op : BitVec 8} {arg : Byte} {sel : BitVec 1} (h : opInstr op arg sel = none) :
    0x0C#8 < op := by
  iterate 13 rcases ite_eq_iff.1 h with ⟨-, ⟨⟩⟩ | ⟨_, h⟩
  bv_omega

theorem wellFormedWord_iff {w : Word} : wellFormedWord w = true ↔
    rsvField w = 0#15 ∧ opField w ≤ 0x0C#8 ∧ (argField w = 0#8 ∨ opField w ∈ [0x02#8, 0x03#8, 0x06#8]) ∧
      (selField w = 0#1 ∨ opField w ∈ [0x09#8, 0x0B#8]) := by
  simp [wellFormedWord, rsvClear, opDefined, argUsed, selUsed, rsvField, opField, argField, selField, and_assoc]

/-- The decoder accepts the words of the field checks, with the command of their fields (30_encoding R108). -/
theorem decodeCmd_eq_ok {w : Word} {i : Instr} : decodeCmd w = .ok i ↔
    wellFormedWord w = true ∧ opInstr (opField w) (argField w) (selField w) = some i := by
  rw [wellFormedWord_iff, decodeCmd]
  cases opInstr (opField w) (argField w) (selField w) <;> grind

theorem encodingLegal (i : Instr) : Laws.EncodingLegal.Statement i := by
  cases i with
  | nop => exact Laws.EncodingLegal.nop
  | validate => exact Laws.EncodingLegal.validate
  | mapDec a => exact Laws.EncodingLegal.mapDec a
  | mapEnc a => exact Laws.EncodingLegal.mapEnc a
  | strip => exact Laws.EncodingLegal.strip
  | chkInit => exact Laws.EncodingLegal.chkInit
  | chkStep a => exact Laws.EncodingLegal.chkStep a
  | chkHrp => exact Laws.EncodingLegal.chkHrp
  | chkData => exact Laws.EncodingLegal.chkData
  | chkFinal k => exact Laws.EncodingLegal.chkFinal k
  | chkVerify => exact Laws.EncodingLegal.chkVerify
  | encode k => exact Laws.EncodingLegal.encode k
  | decode => exact Laws.EncodingLegal.decode

/-- Settles O1: an accepted word has RSV = 0 and the other fields of its command, and a word is its fields; conversely a
command's word is legal and has the command's fields. -/
theorem decodesExactlyItsOwnWord : Obligations.DecodesExactlyItsOwnWord := by
  intro w i
  rw [decodeCmd_eq_ok]
  constructor
  · rintro ⟨hwf, hi⟩
    obtain ⟨hrsv, -, harg, hsel⟩ := wellFormedWord_iff.1 hwf
    obtain ⟨hop, harg, hsel⟩ := fields_eq_of_opInstr_eq_some hi harg hsel
    rw [encode_eq_wordOfFields, ← hop, ← harg, ← hsel, ← hrsv, wordOfFields_fields]
  · rintro rfl
    obtain ⟨-, hwf⟩ := encodingLegal i
    refine ⟨hwf, ?_⟩
    rw [encode_eq_wordOfFields, opField_wordOfFields, argField_wordOfFields, selField_wordOfFields, opInstr_fieldsOf]

/-- Settles O4, word by word. -/
theorem writtenOutWordsDecode : Obligations.WrittenOutWordsDecode := by
  unfold Obligations.WrittenOutWordsDecode
  decide

end Sys2Proof
end

section
/-! PROOFS. The table of R106 (O2): its rows read field by field. -/

namespace Sys2Proof

/-- Each row fixes RSV and OP whole, ARG and SEL whole where its command does not use them, and to a legal word's values. -/
theorem opRows_fields : ∀ r ∈ opRows, wellFormedWord r.mtch = true ∧
    rsvField r.mask = BitVec.allOnes 15 ∧ opField r.mask = BitVec.allOnes 8 ∧
    (argField r.mask = BitVec.allOnes 8 ∨ opField r.mtch ∈ [0x02#8, 0x03#8, 0x06#8]) ∧
    (selField r.mask = BitVec.allOnes 1 ∨ opField r.mtch ∈ [0x09#8, 0x0B#8]) := by
  decide

/-- No two rows have the same opcode (30_encoding R105). -/
theorem nodup_opRows_opcodes : (opRows.map fun r => opField r.mtch).Nodup := by
  decide

section
variable {r : OpRow} {w : Word} (h : r.matches w = true)
include h

theorem and_mask_of_matches : w &&& r.mask = r.mtch := by
  simpa [OpRow.matches] using h

/-- A field that the row's mask takes whole has the row's value. -/
theorem extractLsb'_of_matches {start len : Nat} (hm : r.mask.extractLsb' start len = BitVec.allOnes len) :
    w.extractLsb' start len = r.mtch.extractLsb' start len := by
  rw [← and_mask_of_matches h, BitVec.extractLsb'_and, hm, BitVec.and_allOnes]

theorem opField_of_matches (hr : r ∈ opRows) : opField w = opField r.mtch := by
  obtain ⟨-, -, hop, -, -⟩ := opRows_fields r hr
  exact extractLsb'_of_matches h hop

/-- A word that matches a row passes the field checks (30_encoding R106, R107). -/
theorem wellFormedWord_of_matches (hr : r ∈ opRows) : wellFormedWord w = true := by
  obtain ⟨hwf, hrsvMask, -, hargMask, hselMask⟩ := opRows_fields r hr
  obtain ⟨hrsv, hop, harg, hsel⟩ := wellFormedWord_iff.1 hwf
  rw [wellFormedWord_iff, opField_of_matches h hr]
  refine ⟨(extractLsb'_of_matches h hrsvMask).trans hrsv, hop, ?_, ?_⟩
  · rcases hargMask with hm | hused
    · exact harg.imp_left (extractLsb'_of_matches h hm).trans
    · exact .inr hused
  · rcases hselMask with hm | hused
    · exact hsel.imp_left (extractLsb'_of_matches h hm).trans
    · exact .inr hused

end

theorem wellFormedWord_of_legalWord {w : Word} (h : legalWord w = true) : wellFormedWord w = true := by
  obtain ⟨r, hr, hm⟩ := List.any_eq_true.1 h
  exact wellFormedWord_of_matches hm hr

/-- A word that passes the field checks has a defined opcode, so the decoder answers a command. -/
theorem exists_decodeCmd_of_wellFormedWord {w : Word} (h : wellFormedWord w = true) : ∃ i, decodeCmd w = .ok i := by
  obtain ⟨-, hop, -, -⟩ := wellFormedWord_iff.1 h
  have hsome : opInstr (opField w) (argField w) (selField w) ≠ none := fun hnone =>
    absurd (lt_of_opInstr_eq_none hnone) (BitVec.not_lt.2 hop)
  obtain ⟨i, hi⟩ := Option.ne_none_iff_exists'.1 hsome
  exact ⟨i, decodeCmd_eq_ok.2 ⟨h, hi⟩⟩

/-- An accepted word is a command's own word, which the table admits. -/
theorem legalWord_of_decodeCmd_eq_ok {w : Word} {i : Instr} (h : decodeCmd w = .ok i) : legalWord w = true := by
  obtain rfl := (decodesExactlyItsOwnWord w i).1 h
  exact (encodingLegal i).1

/-- Settles O2: accepted words are legal, legal words pass the field checks, and words that pass them are accepted; rows
that match one word share its opcode. -/
theorem legalWordsAreTheTableRows : Obligations.LegalWordsAreTheTableRows := by
  intro w
  refine ⟨⟨?_, ?_⟩, Bool.eq_iff_iff.2 ⟨wellFormedWord_of_legalWord, ?_⟩, ?_⟩
  · rintro ⟨i, hi⟩
    exact legalWord_of_decodeCmd_eq_ok hi
  · exact fun h => exists_decodeCmd_of_wellFormedWord (wellFormedWord_of_legalWord h)
  · intro h
    obtain ⟨i, hi⟩ := exists_decodeCmd_of_wellFormedWord h
    exact legalWord_of_decodeCmd_eq_ok hi
  · intro r₁ h₁ r₂ h₂ hm₁ hm₂
    refine List.inj_on_of_nodup_map nodup_opRows_opcodes h₁ h₂ ?_
    exact (opField_of_matches hm₁ h₁).symm.trans (opField_of_matches hm₂ h₂)

end Sys2Proof
end

section
/-! PROOFS. Runs turn by turn: a run's first step, a poll of WAIT, and the engine's turn on a pending command (O57). -/

namespace Sys2Proof.Machine

theorem run_zero (s : State) : run 0 s = .next s := rfl

theorem core_run_succ_of_step {M : Host.Core} {s t : M.State} (h : M.step s = .next t) (k : Nat) :
    M.run (k + 1) s = M.run k t := by
  rw [Host.Core.run, h]

/-- A run goes on from where its first step ends. -/
theorem run_succ_of_step {s t : State} (h : step s = .next t) (k : Nat) : run (k + 1) s = run k t :=
  core_run_succ_of_step (M := Sys2Proof.core) h k

/-- Bit 0 of STATUS is BUSY (10_state R43, R44). -/
theorem statusWord_getLsbD_zero (s : State) : (statusWord s).getLsbD 0 = busy s := by
  rw [statusWord, BitVec.getLsbD_append]
  simp

theorem hostPoll_of_idle {s : State} (hb : busy s = false) : hostPoll s = { s with rdata := statusWord s } :=
  if_neg (by simp [hb])

theorem hostPoll_of_busy {s : State} (hb : busy s = true) :
    hostPoll s = { s with rdata := statusWord s, turns := .engine :: .host .wait :: s.turns } :=
  if_pos hb

/-- A WAIT that finds BUSY = 0 has read STATUS and is over (30_encoding R110). -/
theorem step_wait_of_idle {s : State} {rest : List Turn} (hts : s.turns = .host .wait :: rest) (hb : busy s = false) :
    step s = .next { s with turns := rest, rdata := statusWord s } :=
  (step_of_hostTurn_next hts).trans (congrArg Host.Outcome.next (hostPoll_of_idle hb))

/-- A WAIT that finds BUSY = 1 goes on, once the engine has had a turn (30_encoding R110; log 4). -/
theorem step_wait_of_busy {s : State} {rest : List Turn} (hts : s.turns = .host .wait :: rest) (hb : busy s = true) :
    step s = .next { s with turns := .engine :: .host .wait :: rest, rdata := statusWord s } :=
  (step_of_hostTurn_next hts).trans (congrArg Host.Outcome.next (hostPoll_of_busy hb))

/-- Completion empties PEND (44_control R231). -/
@[simp] theorem busy_complete (clears : Bool) (s : State) (b : Body) : busy (complete clears s b) = false := by
  cases b <;> rfl

/-- No command writes the model's own fields of the outside (log 1, log 5). -/
theorem exec_keeps_outside {i : Instr} {s t : State} (ht : exec i s = .next t) :
    t.turns = s.turns ∧ t.rdata = s.rdata := by
  obtain ⟨e, -, rfl⟩ | ⟨f, hf, -, rfl⟩ := exec_next_cases ht
  · cases clearsOutput i <;> exact ⟨rfl, rfl⟩
  · obtain ⟨_, _, _, _, _, _, hstaged⟩ := body_staged hf
    simp [hstaged]

theorem busy_of_exec {i : Instr} {s t : State} (ht : exec i s = .next t) : busy t = false := by
  obtain rfl := exec_next_iff.1 ht
  exact busy_complete _ _ _

/-- With the engine's turn next and a word pending that decodes, the step runs the command (44_control R232). -/
theorem step_of_engine_next {s : State} {rest : List Turn} {w : Word} {i : Instr} (hts : s.turns = .engine :: rest)
    (hp : s.pend = some w) (hd : decodeCmd w = .ok i) : step s = exec i { s with turns := rest } := by
  simp [step, nextTurn, popTurn, pendingWord, hts, hp, hd]

/-- The engine's turn completes whatever word is pending, legal or not (44_control R232). -/
theorem step_engine_of_busy {s : State} {rest : List Turn} (hts : s.turns = .engine :: rest) (hb : busy s = true) :
    ∃ t, step s = .next t ∧ busy t = false ∧ t.turns = rest := by
  obtain ⟨w, hp⟩ := busy_eq_true.1 hb
  cases hd : decodeCmd w with
  | ok i =>
    have ht := exec_eq_next i { s with turns := rest }
    obtain ⟨hturns, -⟩ := exec_keeps_outside ht
    exact ⟨_, (step_of_engine_next hts hp hd).trans ht, busy_complete _ _ _, hturns⟩
  | error r =>
    refine ⟨completeErr .illegalCommand { s with turns := rest }, ?_, rfl, rfl⟩
    simp [step, nextTurn, popTurn, pendingWord, hts, hp, hd, completeIllegal, commit]

/-- Settles O57: a poll that finds BUSY, the engine's turn and the poll after it; or that one poll alone. -/
theorem waitEnds : Obligations.WaitEnds := by
  intro s rest hts
  have hpolled (u : State) : ({ u with turns := rest, rdata := statusWord u } : State).rdata.getLsbD 0 = busy u :=
    statusWord_getLsbD_zero u
  cases hb : busy s with
  | false =>
    exact ⟨_, run_succ_of_step (step_wait_of_idle hts hb) 0, hb, rfl, rfl, (hpolled s).trans hb⟩
  | true =>
    obtain ⟨t, ht, htb, htts⟩ := step_engine_of_busy
      (s := { s with turns := .engine :: .host .wait :: rest, rdata := statusWord s }) rfl hb
    refine ⟨{ t with turns := rest, rdata := statusWord t }, ?_, htb, rfl, rfl, (hpolled t).trans htb⟩
    rw [if_pos rfl, run_succ_of_step (step_wait_of_busy hts hb), run_succ_of_step ht,
      run_succ_of_step (step_wait_of_idle htts htb), run_zero]

end Sys2Proof.Machine
end

section
/-! PROOFS. A host script's `WR` as a step (O58, O59): it reaches its register, and on an idle machine it is not dropped. -/

namespace Sys2Proof.Machine

/-- A named register's word is reached at its address (10_state R39). -/
theorem accessReg_regAddr {r : WindowReg} (h : ∀ j, r = .ibuf j ∨ r = .obuf j → j < 128) :
    accessReg (regAddr r) 4 = some r := by
  have hoff : regOffset r < 0x1000 ∧ regOffset r % 4 = 0 := by
    cases r with
    | ibuf j => have hj := h j (.inl rfl); simp only [regOffset]; omega
    | obuf j => have hj := h j (.inr rfl); simp only [regOffset]; omega
    | _ => decide
  rw [regAddr, accessReg_base_add hoff.1 hoff.2, regAt_regOffset h]

/-- On an idle machine `WR reg, v` is the register's write (30_encoding R110, 20_memory R80). -/
theorem step_scriptWr {s : State} (hb : busy s = false) {r : WindowReg} (hctrl : r ≠ .ctrl)
    (h : ∀ j, r = .ibuf j ∨ r = .obuf j → j < 128) (v : Word) (rest : List Turn) :
    step { s with turns := scriptWr r v ++ rest } = .next (writeIdle v { s with turns := rest } r) := by
  have hb' : busy { s with turns := rest } = false := hb
  have hw : writeReg v { s with turns := rest } r = writeIdle v { s with turns := rest } r := by
    simp [writeReg, hctrl, hb']
  rw [← hw, ← hostWrite_of_accessReg (accessReg_regAddr h)]
  rfl

end Sys2Proof.Machine
end

section
/-! PROOFS. RUN (O58): what a command does depends on neither DONE, PEND nor the model's own fields of the outside. -/

namespace Sys2Proof.Machine

/-- DONE, PEND and the model's own fields of the outside replaced. -/
def withControl (d : Bool) (p : Option Word) (ts : List Turn) (w : Word) (s : State) : State :=
  { s with done := d, pend := p, turns := ts, rdata := w }

/-- The same fields replaced in what a body stages. -/
def stageControl (d : Bool) (p : Option Word) (ts : List Turn) (w : Word) (b : Body) : Body :=
  b.map fun f => { f with staged := withControl d p ts w f.staged }

section
variable (d : Bool) (p : Option Word) (ts : List Turn) (w : Word) (s : State)

/-- Completion writes DONE and PEND and leaves the outside (44_control R231). -/
theorem complete_stageControl (clears : Bool) (b : Body) :
    complete clears (withControl d p ts w s) (stageControl d p ts w b) =
      { complete clears s b with turns := ts, rdata := w } := by
  cases b with
  | ok f => rfl
  | error e => cases clears <;> rfl

@[simp] theorem withControl_iabsent : (withControl d p ts w s).iabsent = s.iabsent := rfl

@[simp] theorem withControl_hlenIn : (withControl d p ts w s).hlenIn = s.hlenIn := rfl

@[simp] theorem inputLen_withControl : inputLen (withControl d p ts w s) = inputLen s := rfl

@[simp] theorem inputRange_withControl (a b : Nat) : inputRange (withControl d p ts w s) a b = inputRange s a b := rfl

@[simp] theorem inputSeq_withControl : inputSeq (withControl d p ts w s) = inputSeq s := rfl

/-- A body reads none of the replaced fields and stages none. -/
theorem bodyOf_withControl (i : Instr) :
    bodyOf i (withControl d p ts w s) = stageControl d p ts w (bodyOf i s) := by
  cases i with
  | nop | chkInit | chkFinal => rfl
  | mapDec c => simp only [bodyOf, mapDecBody]; cases mapDec c <;> rfl
  | mapEnc v => simp only [bodyOf, mapEncBody]; cases mapEnc v <;> rfl
  | chkStep v => simp only [bodyOf, chkStepBody]; cases asSym v <;> rfl
  | chkVerify =>
    simp only [bodyOf, chkVerifyBody, show (withControl d p ts w s).chk = s.chk from rfl]
    cases residueTag s.chk <;> rfl
  | strip => simp only [bodyOf, stripBody, apply_ite (stageControl d p ts w)]; rfl
  | chkHrp => simp only [bodyOf, chkHrpBody, apply_ite (stageControl d p ts w)]; rfl
  | validate =>
    simp only [bodyOf, validateBody, apply_ite (stageControl d p ts w), inputSeq_withControl]
    cases structural (inputSeq s) <;> rfl
  | chkData =>
    simp only [bodyOf, chkDataBody, apply_ite (stageControl d p ts w), inputSeq_withControl]
    cases asSyms (inputSeq s) <;> rfl
  | decode =>
    simp only [bodyOf, decodeBody, apply_ite (stageControl d p ts w), inputSeq_withControl]
    cases decodeString (inputSeq s) <;> rfl
  | encode k =>
    simp only [bodyOf, encodeBody, apply_ite (stageControl d p ts w), withControl_hlenIn, inputLen_withControl,
      inputRange_withControl]
    cases encodeString (inputRange s 0 s.hlenIn.toNat) (inputRange s s.hlenIn.toNat (inputLen s)) k <;> rfl

/-- A command's effect from any DONE, PEND and outside is its effect, with the outside kept. -/
theorem exec_withControl {i : Instr} {t : State} (ht : exec i s = .next t) :
    exec i (withControl d p ts w s) = .next { t with turns := ts, rdata := w } := by
  obtain rfl := exec_next_iff.1 ht
  rw [exec_next_iff, bodyOf_withControl, complete_stageControl]

end

/-- WAIT with a command's word pending: a poll finds BUSY, the engine runs the command, from a state that differs from the
idle one only in what no command reads, and the second poll finds BUSY = 0. -/
theorem run_wait_of_issue {i : Instr} {s t : State} {rest : List Turn} (ht : exec i { s with turns := rest } = .next t) :
    run 3 (issue (encode i) { s with turns := .host .wait :: rest }) = .next { t with rdata := statusWord t } := by
  obtain ⟨hturns, -⟩ := exec_keeps_outside ht
  have hbt : busy t = false := busy_of_exec ht
  obtain ⟨w, hpoll⟩ : ∃ w, step (issue (encode i) { s with turns := .host .wait :: rest }) =
      .next (withControl false (some (encode i)) (.engine :: .host .wait :: rest) w s) :=
    ⟨_, step_wait_of_busy rfl rfl⟩
  have hrun : step (withControl false (some (encode i)) (.engine :: .host .wait :: rest) w s) =
      .next { t with turns := .host .wait :: rest, rdata := w } :=
    (step_of_engine_next rfl rfl ((decodesExactlyItsOwnWord _ i).2 rfl)).trans
      (exec_withControl false (some (encode i)) (.host .wait :: rest) w { s with turns := rest } ht)
  have hlast : step { t with turns := .host .wait :: rest, rdata := w } =
      .next { t with turns := rest, rdata := statusWord t } :=
    step_wait_of_idle rfl hbt
  rw [run_succ_of_step hpoll, run_succ_of_step hrun, run_succ_of_step hlast, run_zero, show rest = t.turns from hturns.symm]

/-- Settles O58: the word is written and issued, and WAIT runs it. -/
theorem runScriptIsTheCommand : Obligations.RunScriptIsTheCommand := by
  intro i s rest hb
  have hwrite : step { s with turns := scriptRun i ++ rest } =
      .next (issue (encode i) { s with turns := .host .wait :: rest }) :=
    step_scriptWr hb (r := .cmd) (by decide) (by simp) (encode i) (.host .wait :: rest)
  refine ⟨_, exec_eq_next i _, ?_⟩
  rw [run_succ_of_step hwrite]
  exact run_wait_of_issue (exec_eq_next i _)

end Sys2Proof.Machine
end

section
/-! PROOFS. LOAD (O59): the fill writes the text to IBUF entry by entry, and the two writes after it present it. -/

namespace Sys2Proof.Machine

/-- The writes of a text to entries of IBUF on an idle machine are one sequence written to the buffer. -/
theorem run_scriptFill {s : State} (hb : busy s = false) {text : List Byte} {j : Nat} (hcap : j + text.length ≤ 128)
    (k : Nat) (rest : List Turn) : run (text.length + k) { s with turns := scriptFill j text ++ rest } =
      run k { s with ibuf := s.ibuf.writeFrom j text, turns := rest } := by
  induction text generalizing s j with
  | nil => rw [List.length_nil, Nat.zero_add]; rfl
  | cons b text ih =>
    rw [List.length_cons] at hcap ⊢
    have hbyte : (b.setWidth 32).setWidth 8 = b := by simp
    have hstep : step { s with turns := scriptFill j (b :: text) ++ rest } =
        .next { s with ibuf := s.ibuf.write j b, turns := scriptFill (j + 1) text ++ rest } := by
      rw [scriptFill, List.append_assoc, step_scriptWr hb (by simp) (by simp; omega), writeIdle, hbyte]
    rw [Nat.add_right_comm, run_succ_of_step hstep]
    exact ih (s := { s with ibuf := s.ibuf.write j b }) hb (by omega)

/-- A text written from entry 0 on, with ILEN its length, is the input (20_memory R87). -/
theorem inputSeq_of_writeFrom {m : Memory} (hm : m.wf = true) {text : List Byte} (hcap : text.length ≤ 128) {t : State}
    (hibuf : t.ibuf = m.writeFrom 0 text) (hilen : inputLen t = text.length) : inputSeq t = text := by
  refine List.ext_getElem (by rw [length_inputSeq, hilen]) fun i _ hi => ?_
  have hread := Memory.read_writeFrom hm (k := 0) (bs := text) (by simpa using hcap) i
  simpa [inputSeq, inputRange, hibuf, hi] using hread

/-- LOAD on an idle machine: the fill, then ILEN and IFLAGS written (30_encoding R112). -/
theorem run_scriptLoad {s : State} (hb : busy s = false) {text : List Byte} (hcap : text.length ≤ 128)
    (rest : List Turn) : run (text.length + 2) { s with turns := scriptLoad text ++ rest } =
      .next { s with
        ibuf := s.ibuf.writeFrom 0 text, ilen := BitVec.ofNat 16 text.length, iabsent := false, turns := rest } := by
  have hilen (m : Memory) (ts : List Turn) :
      step { s with ibuf := m, turns := scriptWr .ilen (BitVec.ofNat 32 text.length) ++ ts } =
        .next { s with ibuf := m, ilen := BitVec.ofNat 16 text.length, turns := ts } := by
    rw [step_scriptWr (s := { s with ibuf := m }) hb (by decide) (by simp), writeIdle,
      BitVec.setWidth_ofNat_of_le (by decide)]
  have hiflags (m : Memory) (n : BitVec 16) :
      step { s with ibuf := m, ilen := n, turns := scriptWr .iflags 0#32 ++ rest } =
        .next { s with ibuf := m, ilen := n, iabsent := false, turns := rest } :=
    step_scriptWr (s := { s with ibuf := m, ilen := n }) hb (by decide) (by simp) 0#32 rest
  rw [scriptLoad, List.append_assoc, List.append_assoc, run_scriptFill hb (by omega), run_succ_of_step (hilen _ _),
    run_succ_of_step (hiflags _ _), run_zero]

/-- Settles O59: the fill lies within IBUF, so the input reads the text, and the entries past it are those before. -/
theorem loadScriptPresentsTheText : Obligations.LoadScriptPresentsTheText := by
  intro s text rest hm hb hcap
  have hlen : (BitVec.ofNat 16 text.length).toNat = text.length := by
    rw [BitVec.toNat_ofNat]; omega
  refine ⟨_, run_scriptLoad hb hcap rest, rfl, inputSeq_of_writeFrom hm hcap rfl hlen, fun i hi => ?_⟩
  have hread := Memory.read_writeFrom hm (k := 0) (bs := text) (by simpa using hcap) i
  rwa [if_neg (by omega)] at hread

end Sys2Proof.Machine
end

section
/-! PROOFS. The validator and the splitter (O5): what each check accepts, and where the last separator is. -/

namespace Sys2Proof.Machine

/-- A check passes what it does not stop and what the checks after it pass. -/
theorem ite_error_eq_ok_iff {ε α : Type} {c : Prop} [Decidable c] {e : ε} {r : Except ε α} {x : α} :
    (if c then .error e else r) = .ok x ↔ ¬c ∧ r = .ok x := by
  split <;> simp [*]

/-- The lexical checks pass a string none of them stops (40_validate_split R121). -/
theorem lexical_eq_ok_iff {s : List Byte} : lexical s = .ok () ↔
    8 ≤ s.length ∧ s.length ≤ 90 ∧ ¬(s.any isUpper = true ∧ s.any isLower = true) ∧ s.any codeOutOfRange = false ∧
      Config.sep ∈ s := by
  simp only [lexical, ite_error_eq_ok_iff, Nat.not_lt, gt_iff_lt, Bool.and_eq_true, Bool.not_eq_true]
  simp

/-- The length checks pass a split none of them stops (40_validate_split R123). -/
theorem postSplit_eq_ok_iff {x : Split} : postSplit x = .ok () ↔
    1 ≤ x.hrp.length ∧ x.hrp.length ≤ 83 ∧ 6 ≤ x.dp.length := by
  simp only [postSplit, ite_error_eq_ok_iff, Nat.not_lt, gt_iff_lt, and_true]

/-- The structural check passes a string both checks pass, cut at its last separator (40_validate_split R124). -/
theorem structural_eq_ok_iff {s : List Byte} {x : Split} : structural s = .ok x ↔
    lexical s = .ok () ∧ ∃ p, lastSep s = some p ∧ postSplit (splitAtSep s p) = .ok () ∧ x = splitAtSep s p := by
  unfold structural
  cases lexical s with
  | error e => simp
  | ok u =>
    cases lastSep s with
    | none => simp
    | some p => cases h : postSplit (splitAtSep s p) <;> simp [h, eq_comm]

theorem lastSep_eq_none_iff {s : List Byte} : lastSep s = none ↔ Config.sep ∉ s := by
  induction s with
  | nil => simp [lastSep]
  | cons c cs ih =>
    rw [lastSep, List.mem_cons, not_or, ← ih]
    cases lastSep cs with
    | none => by_cases hc : c = Config.sep <;> simp [hc, eq_comm]
    | some p => simp

/-- The last separator is a separator with none after it (40_validate_split R122). -/
theorem lastSep_eq_some_iff {s : List Byte} {p : Nat} :
    lastSep s = some p ↔ s[p]? = some Config.sep ∧ Config.sep ∉ s.drop (p + 1) := by
  induction s generalizing p with
  | nil => simp [lastSep]
  | cons c cs ih =>
    rw [lastSep]
    cases p with
    | zero =>
      rw [List.getElem?_cons_zero, List.drop_succ_cons, List.drop_zero, ← lastSep_eq_none_iff]
      cases lastSep cs <;> simp
    | succ p =>
      rw [List.getElem?_cons_succ, List.drop_succ_cons, ← ih]
      cases lastSep cs with
      | none => by_cases hc : c = Config.sep <;> simp [hc]
      | some q => simp

/-- A string is its first entries, the entry at an index of it, and the entries after. -/
theorem take_append_drop_of_getElem? {s : List Byte} {p : Nat} {c : Byte} (h : s[p]? = some c) :
    s = s.take p ++ [c] ++ s.drop (p + 1) := by
  obtain ⟨hp, rfl⟩ := List.getElem?_eq_some_iff.1 h
  simp

/-- A code in range (40_validate_split R121, step 4). -/
theorem codeOutOfRange_eq_false_iff {c : Byte} : codeOutOfRange c = false ↔ 0x21#8 ≤ c ∧ c ≤ 0x7E#8 := by
  simp [codeOutOfRange, Config.codeMin, Config.codeMax]

/-- Settles O5: each conjunct is a check passed, and the cut is at the last separator. -/
theorem structuralPassMeansConforming : Obligations.StructuralPassMeansConforming := by
  intro s x h
  obtain ⟨hlex, p, hp, hpost, rfl⟩ := structural_eq_ok_iff.1 h
  obtain ⟨hmin, hmax, hcase, hrange, -⟩ := lexical_eq_ok_iff.1 hlex
  obtain ⟨hhrp, hhrp', hdp⟩ := postSplit_eq_ok_iff.1 hpost
  obtain ⟨hsep, hlast⟩ := lastSep_eq_some_iff.1 hp
  have hlt : p < s.length := (List.getElem?_eq_some_iff.1 hsep).1
  have hlenHrp : (s.take p).length = p := List.length_take_of_le hlt.le
  have hlenDp : (s.drop (p + 1)).length = s.length - p - 1 := by rw [List.length_drop]; omega
  simp only [List.any_eq_true, isUpper, isLower, Bool.and_eq_true, decide_eq_true_eq] at hcase
  refine ⟨hmin, hmax, hcase, fun c hc => ?_, take_append_drop_of_getElem? hsep, hlenHrp, hlast,
    hhrp, hhrp', hdp, hlenDp, ?_⟩
  · exact codeOutOfRange_eq_false_iff.1 (Bool.eq_false_of_not_eq_true (List.any_eq_false.1 hrange c hc))
  · simp only [splitAtSep] at hhrp ⊢
    omega

end Sys2Proof.Machine
end

section
/-! PROOFS. The error of the structural check over the entries of IBUF (O25): `structureErrorOf` is the code of what the
check on the input answers, so VALIDATE reports it. -/

namespace Sys2Proof.Machine

/-- The code a check's error is reported with, if it answers one (60_exceptions R241). -/
def reportedCode {α : Type} : Except ErrKind α → Option (BitVec 5)
  | .error e => some (errCode e)
  | .ok _    => none

@[simp] theorem reportedCode_error {α : Type} (e : ErrKind) :
    reportedCode (.error e : Except ErrKind α) = some (errCode e) := rfl

@[simp] theorem reportedCode_ok {α : Type} (x : α) : reportedCode (.ok x : Except ErrKind α) = none := rfl

theorem reportedCode_eq_some_iff {α : Type} {r : Except ErrKind α} {c : BitVec 5} :
    reportedCode r = some c ↔ ∃ e, r = .error e ∧ errCode e = c := by
  cases r <;> simp

theorem reportedCode_eq_none_iff {α : Type} {r : Except ErrKind α} : reportedCode r = none ↔ ∃ x, r = .ok x := by
  cases r <;> simp

/-- The entries of the input (20_memory R87). -/
theorem getElem?_inputSeq (s : State) (i : Nat) :
    (inputSeq s)[i]? = if i < s.ilen.toNat then some (s.ibuf.read i) else none := by
  split <;> simp_all [inputSeq, inputRange]

theorem mem_inputSeq {s : State} {c : Byte} : c ∈ inputSeq s ↔ ∃ i, i < s.ilen.toNat ∧ s.ibuf.read i = c := by
  simp [inputSeq, inputRange]

theorem any_inputSeq {s : State} {f : Byte → Bool} :
    (inputSeq s).any f = true ↔ ∃ i, i < s.ilen.toNat ∧ f (s.ibuf.read i) = true := by
  simp [inputSeq, inputRange]

theorem all_inputSeq {s : State} {f : Byte → Bool} :
    (inputSeq s).all f = true ↔ ∀ i, i < s.ilen.toNat → f (s.ibuf.read i) = true := by
  simp [inputSeq, inputRange]

/-- The last separator of the input, entry by entry (40_validate_split R122). -/
theorem lastSep_inputSeq {s : State} {p : Nat} : lastSep (inputSeq s) = some p ↔ IsLastSep s p := by
  have hafter : Config.sep ∉ (inputSeq s).drop (p + 1) ↔
      ∀ j, j < s.ilen.toNat → p < j → s.ibuf.read j ≠ 0x31#8 := by
    simp only [List.mem_iff_getElem?, List.getElem?_drop, getElem?_inputSeq, Option.ite_none_right_eq_some,
      Option.some.injEq, not_exists, not_and]
    constructor
    · intro h j hj hpj
      obtain ⟨k, rfl⟩ := Nat.exists_eq_add_of_lt hpj
      rw [Nat.add_right_comm] at hj ⊢
      exact h k hj
    · exact fun h k hk => h (p + 1 + k) hk (by omega)
  rw [lastSep_eq_some_iff, hafter, getElem?_inputSeq, IsLastSep]
  simp [and_assoc]

/-- The lexical checks on the input, entry by entry (40_validate_split R121). -/
theorem lexical_inputSeq (s : State) : lexical (inputSeq s) =
    if s.ilen.toNat < 8 then .error .tooShort
    else if s.ilen.toNat > 90 then .error .tooLong
    else if (∃ i, i < s.ilen.toNat ∧ (0x41#8 ≤ s.ibuf.read i ∧ s.ibuf.read i ≤ 0x5A#8)) ∧
        (∃ j, j < s.ilen.toNat ∧ (0x61#8 ≤ s.ibuf.read j ∧ s.ibuf.read j ≤ 0x7A#8)) then .error .mixedCase
    else if ∃ i, i < s.ilen.toNat ∧ (s.ibuf.read i < 0x21#8 ∨ s.ibuf.read i > 0x7E#8) then .error .charOutOfRange
    else if ∀ i, i < s.ilen.toNat → s.ibuf.read i ≠ 0x31#8 then .error .missingSeparator
    else .ok () := by
  simp only [lexical, length_inputSeq, Bool.and_eq_true, any_inputSeq, all_inputSeq, isUpper, isLower, codeOutOfRange,
    Bool.or_eq_true, decide_eq_true_eq]

/-- Some separator's place has a property that every later place keeps, exactly when the last one's has it. -/
theorem IsLastSep.exists_iff {s : State} {p : Nat} (h : IsLastSep s p) {P : Nat → Prop}
    (hP : ∀ i, i ≤ p → P i → P p) : (∃ i, i < s.ilen.toNat ∧ (s.ibuf.read i = 0x31#8 ∧ P i)) ↔ P p := by
  obtain ⟨hp, hsep, hlast⟩ := h
  constructor
  · rintro ⟨i, hi, hisep, hPi⟩
    exact hP i (Nat.le_of_not_lt fun hpi => hlast i hi hpi hisep) hPi
  · exact fun hPp => ⟨p, hp, hsep, hPp⟩

/-- The length checks on the input cut at its last separator, by the separators' places (40_validate_split R123). -/
theorem postSplit_inputSeq {s : State} {p : Nat} (h : IsLastSep s p) : postSplit (splitAtSep (inputSeq s) p) =
    if ∀ i, i < s.ilen.toNat → (s.ibuf.read i ≠ 0x31#8 ∨ i < 1) then .error .hrpTooShort
    else if ∃ i, i < s.ilen.toNat ∧ (s.ibuf.read i = 0x31#8 ∧ 84 ≤ i) then .error .hrpTooLong
    else if ∃ i, i < s.ilen.toNat ∧ (s.ibuf.read i = 0x31#8 ∧ s.ilen.toNat < i + 7) then .error .dataTooShort
    else .ok () := by
  have hp : p < s.ilen.toNat := h.1
  have hhrp : (splitAtSep (inputSeq s) p).hrp.length = p :=
    List.length_take_of_le (by rw [length_inputSeq]; exact hp.le)
  have hdp : (splitAtSep (inputSeq s) p).dp.length = s.ilen.toNat - (p + 1) := by simp [splitAtSep]
  rw [postSplit, hhrp, hdp]
  refine if_congr ?_ rfl (if_congr ?_ rfl (if_congr ?_ rfl rfl))
  · rw [← not_iff_not, Nat.not_lt, ← h.exists_iff (P := (1 ≤ ·)) fun i hi h1 => h1.trans hi]
    simp [Nat.one_le_iff_ne_zero]
  · exact (h.exists_iff (P := (84 ≤ ·)) fun i hi h84 => h84.trans hi).symm
  · rw [h.exists_iff (P := (s.ilen.toNat < · + 7)) fun i hi hn => by omega, Config.dpMin]
    omega

/-- The structural check of a string with a separator fails with the first error of the two (40_validate_split R124). -/
theorem reportedCode_structural {s : List Byte} {p : Nat} (h : lastSep s = some p) :
    reportedCode (structural s) = (reportedCode (lexical s)).or (reportedCode (postSplit (splitAtSep s p))) := by
  rw [structural, h]
  cases lexical s with
  | error e => rfl
  | ok u => cases hpost : postSplit (splitAtSep s p) <;> simp [hpost]

/-- A present input's error is the one the structural check of it answers, by whether there is a separator. -/
theorem structureErrorOf_of_present {s : State} (ha : s.iabsent = false) :
    structureErrorOf s = reportedCode (structural (inputSeq s)) := by
  rw [structureErrorOf, if_neg (by simp [ha])]
  cases hl : lastSep (inputSeq s) with
  | none =>
    have hnone : ∀ i, i < s.ilen.toNat → s.ibuf.read i ≠ 0x31#8 := by
      simpa [mem_inputSeq] using lastSep_eq_none_iff.1 hl
    rw [structural, lexical_inputSeq, if_pos hnone, if_pos hnone]
    split_ifs <;> rfl
  | some p =>
    have hp : IsLastSep s p := lastSep_inputSeq.1 hl
    have ⟨hlt, hsep, _⟩ := hp
    have hsome : ¬∀ i, i < s.ilen.toNat → s.ibuf.read i ≠ 0x31#8 := fun h => h p hlt hsep
    rw [reportedCode_structural hl, lexical_inputSeq, postSplit_inputSeq hp, if_neg hsome, if_neg hsome]
    split_ifs <;> rfl

/-- An input's error: it is absent, or the structural check fails (60_exceptions R245). -/
theorem structureErrorOf_eq_some {s : State} {c : BitVec 5} (h : structureErrorOf s = some c) :
    (s.iabsent = true ∧ c = 13#5) ∨
    (s.iabsent = false ∧ ∃ e, structural (inputSeq s) = .error e ∧ errCode e = c) := by
  cases ha : s.iabsent with
  | true => rw [structureErrorOf, if_pos ha] at h; cases h; exact .inl ⟨rfl, rfl⟩
  | false => rw [structureErrorOf_of_present ha, reportedCode_eq_some_iff] at h; exact .inr ⟨rfl, h⟩

/-- An input without an error is present, and the structural check cuts it at its last separator. -/
theorem structureErrorOf_eq_none {s : State} (h : structureErrorOf s = none) :
    s.iabsent = false ∧ ∃ p, IsLastSep s p ∧ structural (inputSeq s) = .ok (splitAtSep (inputSeq s) p) := by
  cases ha : s.iabsent with
  | true => rw [structureErrorOf, if_pos ha] at h; cases h
  | false =>
    rw [structureErrorOf_of_present ha, reportedCode_eq_none_iff] at h
    obtain ⟨x, hx⟩ := h
    obtain ⟨-, p, hp, -, rfl⟩ := structural_eq_ok_iff.1 hx
    exact ⟨rfl, p, lastSep_inputSeq.1 hp, hx⟩

/-- Too short a string fails the first check (40_validate_split R121). -/
theorem structural_of_short {s : List Byte} (h : s.length < Config.minLen) : structural s = .error .tooShort := by
  rw [structural, lexical, if_pos h]

/-- Too long a string fails the second check (40_validate_split R121). -/
theorem structural_of_long {s : List Byte} (h : s.length > Config.maxLen) : structural s = .error .tooLong := by
  have hmin : ¬s.length < Config.minLen := Nat.not_lt.2 (le_trans (by decide) (Nat.le_of_lt h))
  rw [structural, lexical, if_neg hmin, if_pos h]

/-- VALIDATE's two checks of ILEN are the structural check's own first two (40_validate_split R126). -/
theorem validateBody_of_present {s : State} (ha : s.iabsent = false) :
    validateBody s = structural (inputSeq s) >>= fun x => finish { s with result := BitVec.ofNat 8 x.sep } none := by
  rw [validateBody, if_neg (by simp [ha])]
  split_ifs with h1 h2
  · rw [structural_of_short (by rwa [length_inputSeq])]; rfl
  · rw [structural_of_long (by rwa [length_inputSeq])]; rfl
  · cases structural (inputSeq s) <;> rfl

/-- The absent input is refused before any check (40_validate_split R126). -/
theorem validateBody_of_absent {s : State} (ha : s.iabsent = true) : validateBody s = .error .nullInput := if_pos ha

/-- A command whose body raises leaves the state of its error (44_control R231). -/
theorem exec_of_bodyOf_error {i : Instr} {s : State} {e : ErrKind} (h : bodyOf i s = .error e) :
    exec i s = .next (doneErr (if clearsOutput i then outputCleared s else s) (errCode e)) := by
  rw [exec_eq_next, h]
  rfl

/-- A command whose body finishes leaves the staged state of its success (44_control R231). -/
theorem exec_of_bodyOf_finish {i : Instr} {s t : State} {k : Option Variant} (h : bodyOf i s = finish t k) :
    exec i s = .next (doneOk t (encCode k)) := by
  rw [exec_eq_next, h]
  rfl

/-- Settles O25: VALIDATE completes with what the structural check of its input answers. -/
theorem validateReportsTheFirstFailure : Obligations.ValidateReportsTheFirstFailure := by
  refine ⟨(decodesExactlyItsOwnWord _ .validate).2 rfl, fun s => ⟨fun c h => ?_, fun h => ?_⟩⟩
  · obtain ⟨ha, rfl⟩ | ⟨ha, e, he, rfl⟩ := structureErrorOf_eq_some h
    · exact exec_of_bodyOf_error (i := .validate) (validateBody_of_absent ha)
    · have hbody : validateBody s = .error e := by rw [validateBody_of_present ha, he]; rfl
      exact exec_of_bodyOf_error (i := .validate) hbody
  · obtain ⟨ha, p, hp, hx⟩ := structureErrorOf_eq_none h
    have hbody : validateBody s = finish { s with result := BitVec.ofNat 8 p } none := by
      rw [validateBody_of_present ha, hx]; rfl
    exact ⟨p, hp, exec_of_bodyOf_finish (i := .validate) hbody⟩

end Sys2Proof.Machine
end

section
/-! PROOFS. The two ROMs (O6): the forward table reads back, the reverse table tells no case apart, and what it lists is the
forward table's entry. -/

namespace Sys2Proof.Machine

/-- The reverse table reads every character of the alphabet back (41_charset R140, R141). -/
@[simp] theorem revmapAt_alphabetAt : ∀ v : Sym, revmapAt (alphabetAt v) = some v := by decide

/-- The reverse table maps both cases of a letter to the same entry (41_charset R141). -/
@[simp] theorem revmapAt_lower : ∀ c : Byte, revmapAt (lower c) = revmapAt c := by decide +kernel

/-- A value the reverse table lists is the lower-case character's in the alphabet (41_charset R141). -/
theorem alphabetAt_of_mem_revmapAt : ∀ c : Byte, ∀ v ∈ revmapAt c, alphabetAt v = lower c := by decide +kernel

/-- The rule of the reverse table, for every code: above 127 it lists nothing, as no character is there. -/
theorem revmapAt_eq_some_iff {c : Byte} {v : Sym} : revmapAt c = some v ↔ alphabetAt v = lower c := by
  refine ⟨alphabetAt_of_mem_revmapAt c v, fun h => ?_⟩
  rw [← revmapAt_lower, ← h, revmapAt_alphabetAt]

theorem revmapAt_eq_none_iff {c : Byte} : revmapAt c = none ↔ ∀ v, alphabetAt v ≠ lower c := by
  simp only [Option.eq_none_iff_forall_ne_some, ne_eq, revmapAt_eq_some_iff]

/-- Settles O6: the rule by `revmapAt_eq_some_iff`, and the two counts of the listed table. -/
theorem reverseTableFollowsTheAlphabet : Obligations.ReverseTableFollowsTheAlphabet :=
  ⟨fun _ _ _ => revmapAt_eq_some_iff, by decide, rfl⟩

end Sys2Proof.Machine
end

section
/-! PROOFS. The functions of the charset (O7, O8): what each mapping answers, and which codes the filter keeps. -/

namespace Sys2Proof.Machine

/-- The characters of the alphabet are ASCII (41_charset R140). -/
theorem alphabetAt_lt : ∀ v : Sym, alphabetAt v < 0x80#8 := by decide

/-- The lower-case form of a code below 128 is below 128 (40_validate_split R120). -/
theorem lower_lt {c : Byte} (h : c < 0x80#8) : lower c < 0x80#8 := by
  unfold lower
  split
  · next hu =>
    simp only [isUpper, Bool.and_eq_true, decide_eq_true_eq] at hu
    bv_omega
  · exact h

theorem asSym_of_le {v : Byte} (h : v ≤ 31#8) : asSym v = .ok (v.setWidth 5) := if_neg (BitVec.not_lt.2 h)

theorem asSym_of_gt {v : Byte} (h : v > 31#8) : asSym v = .error .charsetValueOutOfRange := if_pos h

/-- A symbol stored as a byte is the data value of itself (30_encoding R102). -/
@[simp] theorem asSym_symByte (v : Sym) : asSym (symByte v) = .ok v := by
  have hle : symByte v ≤ 31#8 := by unfold symByte; bv_omega
  rw [asSym_of_le hle, symByte, BitVec.setWidth_setWidth_of_le _ (by decide), BitVec.setWidth_eq]

theorem mapEnc_of_asSym_ok {v : Byte} {x : Sym} (h : asSym v = .ok x) : mapEnc v = .ok (alphabetAt x) := by
  rw [mapEnc, h]

theorem mapEnc_of_asSym_error {v : Byte} {e : ErrKind} (h : asSym v = .error e) : mapEnc v = .error e := by
  rw [mapEnc, h]

theorem mapDec_of_ge {c : Byte} (h : c ≥ 0x80#8) : mapDec c = .error .charOutOfRange := if_pos h

/-- Below 128 the decode mapping is the reverse table, with SENTINEL as CharsetCharInvalid (41_charset R143). -/
theorem mapDec_of_lt {c : Byte} (h : c < 0x80#8) :
    mapDec c = (revmapAt c).elim (.error .charsetCharInvalid) .ok := by
  rw [mapDec, if_neg (BitVec.not_le.2 h)]
  cases revmapAt c <;> rfl

/-- The decode mapping of a symbol's character in either case (41_charset R143). -/
theorem mapDec_of_alphabetAt_eq {c : Byte} {v : Sym} (hc : c < 0x80#8) (h : alphabetAt v = lower c) :
    mapDec c = .ok v := by
  rw [mapDec_of_lt hc, revmapAt_eq_some_iff.2 h, Option.elim_some]

/-- The decode mapping of a code that is no symbol's character (41_charset R143). -/
theorem mapDec_of_alphabetAt_ne {c : Byte} (hc : c < 0x80#8) (h : ∀ v, alphabetAt v ≠ lower c) :
    mapDec c = .error .charsetCharInvalid := by
  rw [mapDec_of_lt hc, revmapAt_eq_none_iff.2 h, Option.elim_none]

/-- The filter keeps the separator and the symbols' characters in either case (41_charset R144). -/
theorem keep_iff {c : Byte} : keep c = true ↔ c = 0x31#8 ∨ (c < 0x80#8 ∧ ∃ v, alphabetAt v = lower c) := by
  simp only [keep, Bool.or_eq_true, beq_iff_eq, Bool.and_eq_true, decide_eq_true_eq, Option.isSome_iff_exists,
    revmapAt_eq_some_iff]

theorem mem_strip {s : List Byte} {c : Byte} : c ∈ strip s ↔ c ∈ s ∧ keep c = true := List.mem_filter

theorem strip_idempotent (s : List Byte) : strip (strip s) = strip s := by simp [strip]

/-- Settles O7, law by law: (a) to (c) and (f) by the rule of the reverse table, (d) and (e) by what the filter keeps. -/
theorem charsetLaws : Obligations.CharsetLaws := by
  refine ⟨fun v => ?_, fun c v _ h => ?_, fun c hc => ?_, strip_idempotent, fun s c hc => ?_, ?_⟩
  · refine ⟨alphabetAt v, mapEnc_of_asSym_ok (asSym_symByte v), ?_⟩
    rw [mapDec_of_lt (alphabetAt_lt v), revmapAt_alphabetAt, Option.elim_some]
  · rw [mapEnc_of_asSym_ok (asSym_symByte v), revmapAt_eq_some_iff.1 h]
  · rw [mapDec_of_lt hc, mapDec_of_lt (lower_lt hc), revmapAt_lower]
  · obtain hsep | ⟨hlt, v, hv⟩ := keep_iff.1 (mem_strip.1 hc).2
    · exact .inl hsep
    · exact .inr ⟨v, mapDec_of_alphabetAt_eq hlt hv⟩
  · exact mapDec_of_alphabetAt_ne (by decide) (by decide)

/-- Settles O8: a filter's result is a sublist, and a code occurs in it as before when it is kept and not at all otherwise. -/
theorem stripKeepsTheAlphabetInOrder : Obligations.StripKeepsTheAlphabetInOrder := by
  refine fun s => ⟨List.filter_sublist, fun c => ?_⟩
  split
  · next h => exact List.count_filter (keep_iff.2 h)
  · next h => exact List.count_eq_zero.2 fun hc => h (keep_iff.1 (mem_strip.1 hc).2)

end Sys2Proof.Machine
end

section
/-! PROOFS. The commands of the charset (O23, O24, O26): each body in each of its cases. -/

namespace Sys2Proof.Machine

/-- The word of a command that uses ARG alone (30_encoding R111). -/
theorem commandWord_sel_zero (mtch : Word) (arg : Byte) :
    commandWord mtch arg 0#1 = mtch ||| (arg.setWidth 32 <<< 8) := by
  simp [commandWord]

/-- MAP_DEC completes with the error of the decode mapping (41_charset R146). -/
theorem exec_mapDec_of_error {c : Byte} {e : ErrKind} (s : State) (h : mapDec c = .error e) :
    exec (.mapDec c) s = .next (doneErr s (errCode e)) := by
  have hbody : mapDecBody c s = .error e := by rw [mapDecBody, h]
  exact exec_of_bodyOf_error (i := .mapDec c) hbody

/-- MAP_DEC completes with the symbol of the decode mapping in RESULT (41_charset R146). -/
theorem exec_mapDec_of_ok {c : Byte} {v : Sym} (s : State) (h : mapDec c = .ok v) :
    exec (.mapDec c) s = .next (doneOk { s with result := symByte v } 0#2) := by
  have hbody : mapDecBody c s = finish { s with result := symByte v } none := by rw [mapDecBody, h]
  exact exec_of_bodyOf_finish (i := .mapDec c) hbody

/-- MAP_ENC completes with the error of the encode mapping (41_charset R147). -/
theorem exec_mapEnc_of_error {v : Byte} {e : ErrKind} (s : State) (h : mapEnc v = .error e) :
    exec (.mapEnc v) s = .next (doneErr s (errCode e)) := by
  have hbody : mapEncBody v s = .error e := by rw [mapEncBody, h]
  exact exec_of_bodyOf_error (i := .mapEnc v) hbody

/-- MAP_ENC completes with the character of the encode mapping in RESULT (41_charset R147). -/
theorem exec_mapEnc_of_ok {v c : Byte} (s : State) (h : mapEnc v = .ok c) :
    exec (.mapEnc v) s = .next (doneOk { s with result := c } 0#2) := by
  have hbody : mapEncBody v s = finish { s with result := c } none := by rw [mapEncBody, h]
  exact exec_of_bodyOf_finish (i := .mapEnc v) hbody

/-- Settles O23: the command completes with what the decode mapping answers in each of its three cases. -/
theorem mapDecReadsTheReverseTable : Obligations.MapDecReadsTheReverseTable := by
  refine ⟨fun c => commandWord_sel_zero _ c, fun s c => ⟨fun hc => ?_, fun hc h => ?_, fun v hc h => ?_⟩⟩
  · exact exec_mapDec_of_error s (mapDec_of_ge hc)
  · exact exec_mapDec_of_error s (mapDec_of_alphabetAt_ne hc h)
  · exact exec_mapDec_of_ok s (mapDec_of_alphabetAt_eq hc h)

/-- Settles O24: the command completes with what the encode mapping answers, by whether the value is a symbol. -/
theorem mapEncReadsTheAlphabet : Obligations.MapEncReadsTheAlphabet := by
  refine ⟨fun v => commandWord_sel_zero _ v, fun s v => ⟨fun hv => ?_, fun hv => ?_⟩⟩
  · exact exec_mapEnc_of_ok s (mapEnc_of_asSym_ok (asSym_of_le hv))
  · exact exec_mapEnc_of_error s (mapEnc_of_asSym_error (asSym_of_gt hv))

/-- The input, entry by entry (20_memory R87). -/
theorem inputSeq_eq_map_range (s : State) : inputSeq s = (List.range s.ilen.toNat).map s.ibuf.read := by
  rw [inputSeq, inputRange, Nat.sub_zero, List.range_eq_range']

/-- STRIP of too long an input raises (41_charset R148). -/
theorem stripBody_of_long {s : State} (ha : s.iabsent = false) (hn : s.ilen.toNat > 128) :
    stripBody s = .error .bufferOverflow := by
  rw [stripBody, if_neg (by simp [ha]), if_pos hn]

/-- STRIP of a present input that fits puts out the kept characters (41_charset R148). -/
theorem stripBody_of_fits {s : State} (ha : s.iabsent = false) (hn : s.ilen.toNat ≤ 128) :
    stripBody s = finish (putOutput (strip (inputSeq s)) 0 s) none := by
  rw [stripBody, if_neg (by simp [ha]), if_neg (Nat.not_lt.2 hn)]

/-- A sequence that fits OBUF, put out: OLEN is its length (20_memory R88). -/
theorem toNat_putOutput_olen {out : List Byte} (hout : out.length ≤ Config.obufCap) (hlen : Nat) (s : State) :
    (putOutput out hlen s).olen.toNat = out.length := by
  have hcap : out.length ≤ 128 := hout
  rw [putOutput_olen, BitVec.toNat_ofNat]
  omega

/-- A sequence that fits OBUF, put out: the entries below its length hold it, and every other one reads as before (20_memory
R88). -/
theorem read_putOutput_obuf {s : State} (hm : s.obuf.wf = true) {out : List Byte} (hout : out.length ≤ Config.obufCap)
    (hlen i : Nat) : (putOutput out hlen s).obuf.read i = if i < out.length then out.getD i 0#8 else s.obuf.read i := by
  have hread := Memory.read_writeFrom hm (k := 0) (bs := out) (by rwa [Nat.zero_add]) i
  simpa [unlistedByte] using hread

/-- Settles O26: the absent case, the overflow, and the kept characters put out, which are no more than the input's. -/
theorem stripWritesTheKeptCharacters : Obligations.StripWritesTheKeptCharacters := by
  refine ⟨(decodesExactlyItsOwnWord _ .strip).2 rfl, fun s hm => ⟨fun ha => ?_, fun ha hn => ?_, fun ha hn => ?_⟩⟩
  · rw [exec_eq_next, bodyOf_strip_absent ha]
    rfl
  · exact exec_of_bodyOf_error (i := .strip) (stripBody_of_long ha hn)
  · have hle : (strip (inputSeq s)).length ≤ s.ilen.toNat := (length_strip_le _).trans_eq (length_inputSeq s)
    have hcap : (strip (inputSeq s)).length ≤ Config.obufCap := hle.trans hn
    have holen := toNat_putOutput_olen hcap 0 s
    have hread := read_putOutput_obuf hm hcap 0
    rw [← inputSeq_eq_map_range]
    refine ⟨_, exec_of_bodyOf_finish (i := .strip) (stripBody_of_fits ha hn), rfl, holen, holen.trans_le hle,
      fun i hi => ?_, fun i hi => ?_⟩
    · exact (hread i).trans (if_pos (hi.trans_eq holen))
    · exact (hread i).trans (if_neg (Nat.not_lt.2 (holen.ge.trans hi)))

end Sys2Proof.Machine
end

section
/-! PROOFS. One polymod step as an exclusive-or of seven terms (O9), each of them linear in the state or the value, so that the
fold is linear (O10). -/

namespace Sys2Proof.Machine

/-- The low 25 bits of a state, shifted left by 5 (42_checksum R172). -/
def shiftedLow (c : Chk) : Chk := (c.extractLsb' 0 25).setWidth 30 <<< 5

/-- What generator `i` contributes to a step from a state (42_checksum R172). -/
def gatedGen (c : Chk) (i : Nat) : Chk := if c.getLsbD (25 + i) then gen i else 0#30

/-- The gate of a step is a bit of the state itself. -/
theorem foldGen_top {i : Nat} (hi : i < 5) (c x : Chk) : foldGen (c.extractLsb' 25 5) x i = x ^^^ gatedGen c i := by
  rw [foldGen, gatedGen, BitVec.getLsbD_extractLsb', decide_eq_true hi, Bool.true_and]
  split <;> simp

/-- A step (42_checksum R172), its gates taken out. -/
theorem polyStep_eq (c : Chk) (v : Sym) : polyStep c v =
    shiftedLow c ^^^ v.setWidth 30 ^^^ gatedGen c 0 ^^^ gatedGen c 1 ^^^ gatedGen c 2 ^^^ gatedGen c 3 ^^^ gatedGen c 4 := by
  simp only [polyStep, List.foldl_cons, List.foldl_nil]
  iterate 5 rw [foldGen_top (by decide)]
  rfl

theorem toNat_shiftedLow (c : Chk) : (shiftedLow c).toNat = c.toNat % 2 ^ 25 * 32 := by
  simp only [shiftedLow, BitVec.toNat_shiftLeft, BitVec.toNat_setWidth, BitVec.extractLsb'_toNat, Nat.shiftLeft_eq,
    Nat.shiftRight_zero]
  omega

theorem toNat_gatedGen (c : Chk) (i : Nat) :
    (gatedGen c i).toNat = if c.toNat.testBit (25 + i) then (gen i).toNat else 0 :=
  apply_ite BitVec.toNat _ _ _

/-- Settles O9: the numbers of the seven terms of a step. -/
theorem polymodStepOnNumbers : Obligations.PolymodStepOnNumbers := by
  intro c v
  have hv : (v.setWidth 30).toNat = v.toNat := BitVec.toNat_setWidth_of_le (by decide)
  simp only [polyStep_eq, BitVec.toNat_xor, toNat_shiftedLow, hv, toNat_gatedGen]
  rfl

theorem shiftedLow_xor (c d : Chk) : shiftedLow (c ^^^ d) = shiftedLow c ^^^ shiftedLow d := by
  simp only [shiftedLow, BitVec.extractLsb'_xor, BitVec.setWidth_xor, BitVec.shiftLeft_xor_distrib]

theorem gatedGen_xor (c d : Chk) (i : Nat) : gatedGen (c ^^^ d) i = gatedGen c i ^^^ gatedGen d i := by
  simp only [gatedGen, BitVec.getLsbD_xor]
  cases c.getLsbD (25 + i) <;> cases d.getLsbD (25 + i) <;> simp

/-- A step is linear in the state and the value together. -/
theorem polyStep_xor (c d : Chk) (v w : Sym) : polyStep (c ^^^ d) (v ^^^ w) = polyStep c v ^^^ polyStep d w := by
  simp only [polyStep_eq, shiftedLow_xor, gatedGen_xor, BitVec.setWidth_xor]
  ac_rfl

/-- Settles O10, by induction on the two sequences. -/
theorem foldIsLinear : Obligations.FoldIsLinear := by
  intro vs ws c d h
  induction vs generalizing ws c d with
  | nil =>
    obtain rfl := List.eq_nil_of_length_eq_zero h.symm
    rfl
  | cons v vs ih =>
    cases ws with
    | nil => cases h
    | cons w ws =>
      rw [List.zipWith_cons_cons, foldFrom, polyStep_xor]
      exact ih ws _ _ (Nat.succ.inj h)

end Sys2Proof.Machine
end

section
/-! PROOFS. The HRP expansion, value by value (O11). -/

namespace Sys2Proof.Machine

/-- A code's bits [7:5] (42_checksum R174). -/
def highPart (c : Byte) : Sym := (c >>> 5).setWidth 5

/-- A code's bits [4:0] (42_checksum R174). -/
def lowPart (c : Byte) : Sym := (c &&& 31#8).setWidth 5

theorem expand_eq (h : List Byte) : expand h = h.map highPart ++ 0#5 :: h.map lowPart := List.append_assoc ..

theorem toNat_highPart (c : Byte) : (highPart c).toNat = c.toNat / 32 := by
  simp only [highPart, BitVec.toNat_setWidth, BitVec.toNat_ushiftRight, Nat.shiftRight_eq_div_pow]
  omega

theorem toNat_lowPart (c : Byte) : (lowPart c).toNat = c.toNat % 32 := by
  rw [lowPart, BitVec.toNat_setWidth, BitVec.toNat_and]
  show (c.toNat &&& 2 ^ 5 - 1) % 2 ^ 5 = _
  rw [Nat.and_two_pow_sub_one_eq_mod, Nat.mod_mod]

@[simp] theorem length_expand (h : List Byte) : (expand h).length = 2 * h.length + 1 := by
  rw [expand_eq, List.length_append, List.length_cons, List.length_map, List.length_map]
  omega

theorem getD_expand_high {h : List Byte} {i : Nat} (hi : i < h.length) :
    (expand h).getD i 0#5 = highPart (h.getD i 0#8) := by
  rw [expand_eq, List.getD_append _ _ _ _ (by rwa [List.length_map])]
  exact List.getD_map h 0#8 highPart

theorem getD_expand_separator (h : List Byte) (x : Sym) : (expand h).getD h.length x = 0#5 := by
  rw [expand_eq, List.getD_append_right _ _ _ _ (by rw [List.length_map]), List.length_map, Nat.sub_self,
    List.getD_cons_zero]

theorem getD_expand_low (h : List Byte) (i : Nat) :
    (expand h).getD (h.length + 1 + i) 0#5 = lowPart (h.getD i 0#8) := by
  rw [expand_eq, List.getD_append_right _ _ _ _ (by rw [List.length_map]; omega), List.length_map,
    show h.length + 1 + i - h.length = i + 1 by omega, List.getD_cons_succ]
  exact List.getD_map h 0#8 lowPart

/-- Settles O11, by the part of the expansion each index falls in. -/
theorem expansionElements : Obligations.ExpansionElements := by
  refine fun h => ⟨length_expand h, fun i hi => ⟨?_, ?_⟩, getD_expand_separator h _⟩
  · rw [getD_expand_high hi, toNat_highPart]
  · rw [getD_expand_low, toNat_lowPart]

end Sys2Proof.Machine
end

section
/-! PROOFS. A created checksum cancels itself (O12): folding a word's six groups is folding six zeros and the word. -/

namespace Sys2Proof.Machine

theorem foldFrom_append (c : Chk) (vs ws : List Sym) : foldFrom c (vs ++ ws) = foldFrom (foldFrom c vs) ws := by
  induction vs generalizing c with
  | nil => rfl
  | cons v vs ih => exact ih _

theorem polymod_append (vs ws : List Sym) : polymod (vs ++ ws) = foldFrom (polymod vs) ws := foldFrom_append ..

/-- No generator is gated in while the top five bits are 0: a step then shifts the value in (42_checksum R172). -/
theorem polyStep_ushiftRight_setWidth (m : Chk) : polyStep (m >>> 5) (m.setWidth 5) = m := by
  have hgate (i : Nat) : gatedGen (m >>> 5) i = 0#30 := by
    rw [gatedGen, BitVec.getLsbD_ushiftRight, BitVec.getLsbD_of_ge _ _ (by omega)]
    rfl
  have hjoin : shiftedLow (m >>> 5) ^^^ (m.setWidth 5).setWidth 30 = m := by
    unfold shiftedLow
    ext i hi
    grind
  simp only [polyStep_eq, hgate, BitVec.xor_zero, hjoin]

/-- The six groups of a word as its bits (42_checksum R182). -/
theorem groups_eq_extractLsb' (m : Chk) : groups m =
    [m.extractLsb' 25 5, m.extractLsb' 20 5, m.extractLsb' 15 5, m.extractLsb' 10 5, m.extractLsb' 5 5,
      m.extractLsb' 0 5] :=
  rfl

/-- From state 0, a word's six groups fold to the word (42_checksum R175): the state is the word's top bits so far. -/
theorem foldFrom_zero_groups (m : Chk) : foldFrom 0#30 (groups m) = m := by
  have hstep (n : Nat) : polyStep (m >>> (n + 5)) (m.extractLsb' n 5) = m >>> n := by
    rw [BitVec.shiftRight_add]
    exact polyStep_ushiftRight_setWidth (m >>> n)
  have hzero : 0#30 = m >>> (25 + 5) := (BitVec.ushiftRight_eq_zero (by decide)).symm
  simp only [groups_eq_extractLsb', foldFrom]
  rw [hzero, hstep, hstep 20, hstep 15, hstep 10, hstep 5, hstep 0, BitVec.ushiftRight_zero]

/-- From any state, a word's six groups fold to six zeros' fold, xor the word: the fold is linear, and the groups are six. -/
theorem foldFrom_groups (c m : Chk) : foldFrom c (groups m) = foldFrom c sixZeros ^^^ m := by
  have h := foldIsLinear sixZeros (groups m) c 0#30 rfl
  have hzip : sixZeros.zipWith (· ^^^ ·) (groups m) = groups m := by simp [sixZeros, groups, List.range_succ]
  rwa [hzip, BitVec.xor_zero, foldFrom_zero_groups] at h

/-- A residue is told by its constant (42_checksum R176). -/
@[simp] theorem residueTag_checksumConst (k : Variant) : residueTag (checksumConst k) = .ok k := by
  cases k <;> rfl

/-- A created checksum is the groups of the fold of its six placeholders, xor the constant (42_checksum R175). -/
theorem createChecksum_eq_groups (h : List Byte) (d : List Sym) (k : Chk) :
    createChecksum h d k = groups (foldFrom (polymod (expand h ++ d)) sixZeros ^^^ k) := by
  rw [createChecksum, polymod_append]

/-- Settles O12: folded after its data, the checksum's groups leave its own constant as the residue. -/
theorem checksumVerifiesItself : Obligations.ChecksumVerifiesItself := by
  intro h d k
  have hres : polymod (expand h ++ (d ++ createChecksum h d (checksumConst k))) = checksumConst k := by
    rw [createChecksum_eq_groups, ← List.append_assoc, polymod_append, foldFrom_groups, ← BitVec.xor_assoc,
      BitVec.xor_self, BitVec.zero_xor]
  rw [verifyChecksum, hres, residueTag_checksumConst]

end Sys2Proof.Machine
end

section
/-! PROOFS. The commands over CHK (O16 to O19, O21, O22): each body in each of its cases. -/

namespace Sys2Proof.Machine

/-- Settles O16: the body has one case. -/
theorem chkInitSetsOne : Obligations.ChkInitSetsOne :=
  ⟨(decodesExactlyItsOwnWord _ .chkInit).2 rfl, fun _ => exec_of_bodyOf_finish (i := .chkInit) rfl⟩

/-- CHK_STEP of a symbol folds it in (42_checksum R179). -/
theorem exec_chkStep_of_le {v : Byte} (s : State) (h : v ≤ 31#8) :
    exec (.chkStep v) s = .next (doneOk { s with chk := polyStep s.chk (v.setWidth 5) } 0#2) := by
  have hbody : chkStepBody v s = finish { s with chk := polyStep s.chk (v.setWidth 5) } none := by
    rw [chkStepBody, asSym_of_le h]
  exact exec_of_bodyOf_finish (i := .chkStep v) hbody

/-- CHK_STEP of a value that is no symbol raises (42_checksum R179). -/
theorem exec_chkStep_of_gt {v : Byte} (s : State) (h : v > 31#8) :
    exec (.chkStep v) s = .next (doneErr s 10#5) := by
  have hbody : chkStepBody v s = .error .charsetValueOutOfRange := by rw [chkStepBody, asSym_of_gt h]
  exact exec_of_bodyOf_error (i := .chkStep v) hbody

/-- Settles O17: the two cases of the value. -/
theorem chkStepFoldsOneValue : Obligations.ChkStepFoldsOneValue :=
  ⟨fun a => commandWord_sel_zero _ a, fun s _ => ⟨exec_chkStep_of_le s, exec_chkStep_of_gt s⟩⟩

/-- Settles O18: the body's three cases. -/
theorem chkHrpFoldsTheExpansion : Obligations.ChkHrpFoldsTheExpansion := by
  refine ⟨(decodesExactlyItsOwnWord _ .chkHrp).2 rfl, fun s => ?_⟩
  rw [← inputSeq_eq_map_range]
  split_ifs with ha hn
  · exact exec_of_bodyOf_error (i := .chkHrp) (if_pos ha)
  · exact exec_of_bodyOf_error (i := .chkHrp) ((if_neg ha).trans (if_pos hn))
  · exact exec_of_bodyOf_finish (i := .chkHrp) ((if_neg ha).trans (if_neg hn))

theorem asSyms_of_le {vs : List Byte} (h : ∀ v ∈ vs, v ≤ 31#8) : asSyms vs = .ok (vs.map fun v => v.setWidth 5) :=
  if_neg fun ⟨v, hv, hgt⟩ => BitVec.not_lt.2 (h v hv) hgt

theorem asSyms_of_gt {vs : List Byte} (h : ∃ v ∈ vs, v > 31#8) : asSyms vs = .error .charsetValueOutOfRange := if_pos h

/-- CHK_DATA of a present input that fits is decided by its values alone (42_checksum R181). -/
theorem chkDataBody_of_fits {s : State} (ha : ¬s.iabsent = true) (hn : ¬s.ilen.toNat > 128) :
    chkDataBody s = (asSyms (inputSeq s)).bind fun d => finish { s with chk := foldFrom s.chk d } none := by
  rw [chkDataBody, if_neg ha, if_neg hn]
  cases asSyms (inputSeq s) <;> rfl

/-- CHK_DATA of symbols alone folds them in (42_checksum R181). -/
theorem exec_chkData_of_le {s : State} (ha : ¬s.iabsent = true) (hn : ¬s.ilen.toNat > 128)
    (h : ∀ v ∈ inputSeq s, v ≤ 31#8) : exec .chkData s =
      .next (doneOk { s with chk := foldFrom s.chk ((inputSeq s).map fun v => v.setWidth 5) } 0#2) := by
  have hbody : chkDataBody s = finish { s with chk := foldFrom s.chk ((inputSeq s).map fun v => v.setWidth 5) } none := by
    rw [chkDataBody_of_fits ha hn, asSyms_of_le h]
    rfl
  exact exec_of_bodyOf_finish (i := .chkData) hbody

/-- CHK_DATA with a value that is no symbol raises (42_checksum R181). -/
theorem exec_chkData_of_gt {s : State} (ha : ¬s.iabsent = true) (hn : ¬s.ilen.toNat > 128)
    (h : ∃ v ∈ inputSeq s, v > 31#8) : exec .chkData s = .next (doneErr s 10#5) := by
  have hbody : chkDataBody s = .error .charsetValueOutOfRange := by
    rw [chkDataBody_of_fits ha hn, asSyms_of_gt h]
    rfl
  exact exec_of_bodyOf_error (i := .chkData) hbody

/-- A condition on the input's values, entry by entry (20_memory R87). -/
theorem forall_mem_inputSeq {s : State} {P : Byte → Prop} :
    (∀ v ∈ inputSeq s, P v) ↔ ∀ i, i < s.ilen.toNat → P (s.ibuf.read i) := by
  simp [inputSeq_eq_map_range]

/-- Settles O19: the body's four cases. -/
theorem chkDataFoldsTheValues : Obligations.ChkDataFoldsTheValues := by
  refine ⟨(decodesExactlyItsOwnWord _ .chkData).2 rfl, fun s => ?_⟩
  split_ifs with ha hn hv
  · exact exec_of_bodyOf_error (i := .chkData) (if_pos ha)
  · exact exec_of_bodyOf_error (i := .chkData) ((if_neg ha).trans (if_pos hn))
  · obtain ⟨i, hi, hgt⟩ := hv
    exact exec_chkData_of_gt ha hn ⟨_, mem_inputSeq.2 ⟨i, hi, rfl⟩, hgt⟩
  · have hle : ∀ v ∈ inputSeq s, v ≤ 31#8 :=
      forall_mem_inputSeq.2 fun i hi => BitVec.not_lt.1 fun hgt => hv ⟨i, hi, hgt⟩
    rw [exec_chkData_of_le ha hn hle, inputSeq_eq_map_range, List.map_map]
    rfl

/-- CHK_FINAL completes in every state (42_checksum R182). -/
theorem exec_chkFinal (k : Variant) (s : State) : exec (.chkFinal k) s =
    .next (doneOk { s with csum := foldFrom s.chk sixZeros ^^^ checksumConst k } 0#2) :=
  exec_of_bodyOf_finish (i := .chkFinal k) rfl

/-- Settles O21: the groups are those of the created checksum, since CHK is the fold of what it covers. -/
theorem chkFinalMakesTheChecksum : Obligations.ChkFinalMakesTheChecksum := by
  refine ⟨(decodesExactlyItsOwnWord _ (.chkFinal .bech32)).2 rfl, (decodesExactlyItsOwnWord _ (.chkFinal .bech32m)).2 rfl,
    fun s k => ⟨?_, fun h d hchk => ⟨_, exec_chkFinal k s, rfl, ?_⟩⟩⟩
  · rw [exec_chkFinal]
    cases k <;> rfl
  · rw [createChecksum_eq_groups, polymod_append, polymod, ← hchk]
    exact groups_eq_extractLsb' _

/-- CHK_VERIFY of a constant finishes with its tag (42_checksum R183). -/
theorem exec_chkVerify_of_eq {s : State} {k : Variant} (h : s.chk = checksumConst k) :
    exec .chkVerify s = .next (doneOk s (encCode (some k))) := by
  have hbody : chkVerifyBody s = finish s (some k) := by rw [chkVerifyBody, h, residueTag_checksumConst]
  exact exec_of_bodyOf_finish (i := .chkVerify) hbody

/-- CHK_VERIFY of anything else raises (42_checksum R183). -/
theorem exec_chkVerify_of_ne {s : State} (h : ∀ k, s.chk ≠ checksumConst k) :
    exec .chkVerify s = .next (doneErr s 12#5) := by
  have hbody : chkVerifyBody s = .error .badChecksum := by rw [chkVerifyBody, residueTag, if_neg (h _), if_neg (h _)]
  exact exec_of_bodyOf_error (i := .chkVerify) hbody

/-- Settles O22: the two constants, and every other state. -/
theorem chkVerifyTellsTheConstant : Obligations.ChkVerifyTellsTheConstant := by
  refine ⟨(decodesExactlyItsOwnWord _ .chkVerify).2 rfl, fun s => ?_⟩
  split_ifs with hm h1
  · exact exec_chkVerify_of_eq (k := .bech32m) hm
  · exact exec_chkVerify_of_eq (k := .bech32) h1
  · refine exec_chkVerify_of_ne fun k => ?_
    cases k with
    | bech32 => exact h1
    | bech32m => exact hm

end Sys2Proof.Machine
end

section
/-! PROOFS. CHK_DATA as CHK_STEP commands (O20): each step's STATUS is overwritten by the next. -/

namespace Sys2Proof.Machine

/-- One or more CHK_STEP commands of symbols end in their fold, with the STATUS of one success (42_checksum R179). -/
theorem chkStepEach_cons {v : Byte} {vs : List Byte} (h : ∀ x ∈ v :: vs, x ≤ 31#8) (s : State) :
    chkStepEach (v :: vs) s =
      .next (doneOk { s with chk := foldFrom s.chk ((v :: vs).map fun x => x.setWidth 5) } 0#2) := by
  induction vs generalizing v s with
  | nil =>
    rw [chkStepEach, exec_chkStep_of_le s (h v List.mem_cons_self)]
    rfl
  | cons w vs ih =>
    obtain ⟨hv, hvs⟩ := List.forall_mem_cons.1 h
    rw [chkStepEach, exec_chkStep_of_le s hv]
    exact ih hvs _

/-- Settles O20: both fold the same values into CHK, and there is at least one. -/
theorem chkDataEqualsItsSteps : Obligations.ChkDataEqualsItsSteps := by
  intro s ha h1 hn hv
  have hle : ∀ v ∈ inputSeq s, v ≤ 31#8 := forall_mem_inputSeq.2 hv
  have hlen : (inputSeq s).length = s.ilen.toNat := length_inputSeq s
  rw [exec_chkData_of_le (by simp [ha]) (Nat.not_lt.2 hn) hle, ← inputSeq_eq_map_range]
  cases hin : inputSeq s with
  | nil =>
    rw [hin, List.length_nil] at hlen
    omega
  | cons v vs =>
    rw [hin] at hle
    exact (chkStepEach_cons hle s).symm

end Sys2Proof.Machine
end

section
/-! PROOFS. The two forms of a letter (40_validate_split R120, 43_codec R207), and what the codec's functions see of them: the
reverse table tells no case apart, and no function of the codec treats an upper-case string other than by its case check. -/

namespace Sys2Proof.Machine

@[simp] theorem lower_lower : ∀ c : Byte, lower (lower c) = lower c := by decide +kernel

@[simp] theorem lower_upper : ∀ c : Byte, lower (upper c) = lower c := by decide +kernel

@[simp] theorem isUpper_lower : ∀ c : Byte, isUpper (lower c) = false := by decide +kernel

@[simp] theorem isLower_upper : ∀ c : Byte, isLower (upper c) = false := by decide +kernel

@[simp] theorem codeOutOfRange_lower : ∀ c : Byte, codeOutOfRange (lower c) = codeOutOfRange c := by decide +kernel

@[simp] theorem codeOutOfRange_upper : ∀ c : Byte, codeOutOfRange (upper c) = codeOutOfRange c := by decide +kernel

@[simp] theorem upper_eq_sep_iff : ∀ c : Byte, upper c = Config.sep ↔ c = Config.sep := by decide +kernel

theorem lower_lt_iff : ∀ c : Byte, lower c < 0x80#8 ↔ c < 0x80#8 := by decide +kernel

/-- The decode mapping answers the symbol whose character is the code's lower-case form (41_charset R141, R143). -/
theorem mapDec_eq_ok_iff {c : Byte} {v : Sym} : mapDec c = .ok v ↔ alphabetAt v = lower c := by
  constructor
  · intro h
    by_cases hc : c < 0x80#8
    · rw [mapDec_of_lt hc] at h
      cases hr : revmapAt c with
      | none => rw [hr] at h; cases h
      | some w => rw [hr] at h; cases h; exact revmapAt_eq_some_iff.1 hr
    · rw [mapDec_of_ge (BitVec.not_lt.1 hc)] at h
      cases h
  · intro h
    exact mapDec_of_alphabetAt_eq ((lower_lt_iff c).1 (h ▸ alphabetAt_lt v)) h

/-- A sequence maps to the symbols whose characters are its lower-case form (41_charset R143). -/
theorem mapDecSeq_eq_ok_iff {cs : List Byte} {vs : List Sym} :
    mapDecSeq cs = .ok vs ↔ vs.map alphabetAt = cs.map lower := by
  induction cs generalizing vs with
  | nil => simp [mapDecSeq, eq_comm]
  | cons c cs ih =>
    cases vs with
    | nil =>
      rw [mapDecSeq]
      cases mapDec c <;> cases mapDecSeq cs <;> simp
    | cons v vs =>
      rw [mapDecSeq, List.map_cons, List.map_cons, List.cons_eq_cons, ← mapDec_eq_ok_iff, ← ih]
      cases mapDec c <;> cases mapDecSeq cs <;> simp

/-- A sequence of codes below 128, one of which is no symbol's character, fails with CharsetCharInvalid (41_charset R143). -/
theorem mapDecSeq_of_exists_invalid {cs : List Byte} (hlt : ∀ c ∈ cs, c < 0x80#8)
    (h : ∃ c ∈ cs, ∀ v, alphabetAt v ≠ lower c) : mapDecSeq cs = .error .charsetCharInvalid := by
  induction cs with
  | nil => simp at h
  | cons c cs ih =>
    obtain ⟨hc, hcs⟩ := List.forall_mem_cons.1 hlt
    rw [mapDecSeq]
    by_cases hv : ∃ v, alphabetAt v = lower c
    · obtain ⟨v, hv⟩ := hv
      rw [mapDec_of_alphabetAt_eq hc hv, ih hcs ((List.exists_mem_cons_iff _ _ _).1 h |>.resolve_left fun hne => hne v hv)]
    · rw [mapDec_of_alphabetAt_ne hc (not_exists.1 hv)]

/-- The decode mapping does not tell the two cases apart (43_codec R207). -/
theorem mapDec_upper (c : Byte) : mapDec (upper c) = mapDec c := by
  have hlt : upper c < 0x80#8 ↔ c < 0x80#8 := by rw [← lower_lt_iff, lower_upper, lower_lt_iff]
  by_cases hc : c < 0x80#8
  · rw [mapDec_of_lt hc, mapDec_of_lt (hlt.2 hc), ← revmapAt_lower, lower_upper, revmapAt_lower]
  · rw [mapDec_of_ge (BitVec.not_lt.1 hc), mapDec_of_ge (BitVec.not_lt.1 (mt hlt.1 hc))]

theorem mapDecSeq_map_upper (cs : List Byte) : mapDecSeq (cs.map upper) = mapDecSeq cs := by
  induction cs with
  | nil => rfl
  | cons c cs ih => rw [List.map_cons, mapDecSeq, mapDecSeq, mapDec_upper, ih]

/-- The upper-case form of a split's two parts. -/
def Split.mapUpper (x : Split) : Split := ⟨x.sep, x.hrp.map upper, x.dp.map upper⟩

theorem lastSep_map_upper (s : List Byte) : lastSep (s.map upper) = lastSep s := by
  induction s with
  | nil => rfl
  | cons c cs ih => simp only [List.map_cons, lastSep, ih, upper_eq_sep_iff]

theorem splitAtSep_map_upper (s : List Byte) (p : Nat) : splitAtSep (s.map upper) p = (splitAtSep s p).mapUpper := by
  simp [splitAtSep, Split.mapUpper]

theorem postSplit_mapUpper (x : Split) : postSplit x.mapUpper = postSplit x := by
  simp only [postSplit, Split.mapUpper, List.length_map]

/-- Neither a string without an upper-case letter nor its upper-case form is of mixed case (40_validate_split R121). -/
theorem lexical_map_upper {s : List Byte} (h : s.any isUpper = false) : lexical (s.map upper) = lexical s := by
  have hlower : (s.map upper).any isLower = false := by simp
  have hrange : (s.map upper).any codeOutOfRange = s.any codeOutOfRange := by simp [Function.comp_def]
  have hsep : (s.map upper).all (· ≠ Config.sep) = s.all (· ≠ Config.sep) := by simp [Function.comp_def]
  rw [lexical, lexical, List.length_map, h, hlower, hrange, hsep, Bool.and_false, Bool.false_and]

/-- The structural check cuts the upper-case form where it cuts the string, or fails as with the string (43_codec R207). -/
theorem structural_map_upper {s : List Byte} (h : s.any isUpper = false) :
    structural (s.map upper) = (structural s).map Split.mapUpper := by
  rw [structural, structural, lexical_map_upper h, lastSep_map_upper]
  cases lexical s with
  | error e => rfl
  | ok u =>
    cases lastSep s with
    | none => rfl
    | some p =>
      simp only [splitAtSep_map_upper, postSplit_mapUpper]
      cases postSplit (splitAtSep s p) <;> rfl

/-- What decode does with an HRP and the symbols of a data part: verify, and strip the checksum (43_codec R200). -/
def decodeData (h : List Byte) (dv : List Sym) : Except ErrKind Decoded :=
  (verifyChecksum h dv).map fun k => ⟨h, dv.take (dv.length - Config.csumLen), k⟩

/-- What decode does with a string that is cut: map the DP, and lower-case the HRP (43_codec R200). -/
def decodeSplit (x : Split) : Except ErrKind Decoded := mapDecSeq x.dp >>= decodeData (x.hrp.map lower)

theorem decodeString_eq_bind (s : List Byte) : decodeString s = structural s >>= decodeSplit := by
  unfold decodeString
  cases structural s with
  | error e => rfl
  | ok x =>
    show _ = mapDecSeq x.dp >>= decodeData (x.hrp.map lower)
    cases hdv : mapDecSeq x.dp with
    | error e => simp only [hdv]; rfl
    | ok dv =>
      show _ = decodeData (x.hrp.map lower) dv
      simp only [hdv, decodeData]
      cases verifyChecksum (x.hrp.map lower) dv <;> rfl

/-- A cut string whose DP maps is decided by its HRP and its symbols (43_codec R200). -/
theorem decodeSplit_of_dataPart {x : Split} {dv : List Sym} (h : dv.map alphabetAt = x.dp.map lower) :
    decodeSplit x = decodeData (x.hrp.map lower) dv := by
  rw [decodeSplit, mapDecSeq_eq_ok_iff.2 h]
  rfl

theorem decodeSplit_mapUpper (x : Split) : decodeSplit x.mapUpper = decodeSplit x := by
  have hlower : (x.hrp.map upper).map lower = x.hrp.map lower := by simp
  rw [decodeSplit, decodeSplit, Split.mapUpper, mapDecSeq_map_upper, hlower]

theorem map_upper_of_no_lower {s : List Byte} (h : s.any isLower = false) : s.map upper = s := by
  refine (List.map_congr_left fun c hc => ?_).trans (List.map_id s)
  exact if_neg (List.any_eq_false.1 h c hc)

/-- Settles O14: a string without a lower-case letter is its own upper-case form, and the upper-case form of one without an
upper-case letter is cut in the same place, into parts that decode the same. -/
theorem decodeIgnoresCase : Obligations.DecodeIgnoresCase := by
  rintro s (hupper | hlower)
  · rw [decodeString_eq_bind, decodeString_eq_bind, structural_map_upper hupper]
    cases structural s with
    | error e => rfl
    | ok x => exact (decodeSplit_mapUpper x).symm
  · rw [map_upper_of_no_lower hlower]

end Sys2Proof.Machine
end

section
/-! PROOFS. The string ENCODE makes (O13): it passes the structural check, cut at its own separator, and its data part maps
back to the symbols it was made from. -/

namespace Sys2Proof.Machine

@[simp] theorem lower_alphabetAt : ∀ v : Sym, lower (alphabetAt v) = alphabetAt v := by decide

@[simp] theorem isUpper_alphabetAt : ∀ v : Sym, isUpper (alphabetAt v) = false := by decide

@[simp] theorem codeOutOfRange_alphabetAt : ∀ v : Sym, codeOutOfRange (alphabetAt v) = false := by decide

theorem alphabetAt_ne_sep : ∀ v : Sym, alphabetAt v ≠ Config.sep := by decide

/-- ENCODE's preconditions (43_codec R202, R205). -/
structure Encodable (h d : List Byte) : Prop where
  hrpMin : 1 ≤ h.length
  hrpMax : h.length ≤ 83
  total : h.length + d.length + 7 ≤ 90
  codes : ∀ c ∈ h, codeOutOfRange c = false
  values : ∀ v ∈ d, v ≤ 31#8

/-- The data part of an HRP and data: the data and their checksum (43_codec R202). -/
def dataPart (h : List Byte) (d : List Sym) (k : Variant) : List Sym := d ++ createChecksum h d (checksumConst k)

/-- The string of an HRP and a data part (43_codec R202). -/
def joined (h : List Byte) (dv : List Sym) : List Byte := h ++ Config.sep :: dv.map alphabetAt

/-- What ENCODE puts out for a string it accepts (43_codec R202). -/
def encoded (h d : List Byte) (k : Variant) : List Byte :=
  joined (h.map lower) (dataPart (h.map lower) (d.map fun v => v.setWidth 5) k)

@[simp] theorem length_dataPart (h : List Byte) (d : List Sym) (k : Variant) :
    (dataPart h d k).length = d.length + 6 := by simp [dataPart]

@[simp] theorem length_joined (h : List Byte) (dv : List Sym) : (joined h dv).length = h.length + 1 + dv.length := by
  rw [joined, List.length_append, List.length_cons, List.length_map]
  omega

theorem length_encoded (h d : List Byte) (k : Variant) : (encoded h d k).length = h.length + d.length + 7 := by
  simp only [encoded, length_joined, length_dataPart, List.length_map]
  omega

/-- The encode function, its checks in order and the string it makes (43_codec R202). -/
theorem encodeString_eq (h d : List Byte) (k : Variant) : encodeString h d k =
    if h.length < 1 then .error .hrpTooShort
    else if h.length > 83 then .error .hrpTooLong
    else if h.length + d.length + 7 > 90 then .error .hrpAndDpCombinedTooLong
    else if h.any codeOutOfRange then .error .charOutOfRange
    else if ∃ v ∈ d, v > 31#8 then .error .charsetValueOutOfRange
    else .ok (encoded h d k) := by
  have hout (ds : List Sym) : h.map lower ++ [Config.sep] ++ ds.map alphabetAt ++
      (createChecksum (h.map lower) ds (checksumConst k)).map alphabetAt =
        joined (h.map lower) (dataPart (h.map lower) ds k) := by simp [joined, dataPart]
  unfold encodeString asSyms
  by_cases hv : ∃ v ∈ d, v > 31#8
  · simp only [if_pos hv]
    rfl
  · simp only [if_neg hv, hout]
    rfl

/-- ENCODE succeeds exactly on its preconditions (43_codec R205). -/
theorem encodeString_eq_ok_iff {h d out : List Byte} {k : Variant} :
    encodeString h d k = .ok out ↔ Encodable h d ∧ out = encoded h d k := by
  rw [encodeString_eq]
  simp only [ite_error_eq_ok_iff, Nat.not_lt, Except.ok.injEq]
  constructor
  · rintro ⟨h1, h2, h3, h4, h5, rfl⟩
    refine ⟨⟨by omega, by omega, by omega, fun c hc => ?_, fun v hv => ?_⟩, rfl⟩
    · exact Bool.eq_false_of_not_eq_true fun hr => h4 (List.any_eq_true.2 ⟨c, hc, hr⟩)
    · exact BitVec.not_lt.1 fun hgt => h5 ⟨v, hv, hgt⟩
  · rintro ⟨⟨h1, h2, h3, h4, h5⟩, rfl⟩
    refine ⟨by omega, by omega, by omega, ?_, ?_, rfl⟩
    · simpa using h4
    · exact fun ⟨v, hv, hgt⟩ => BitVec.not_lt.2 (h5 v hv) hgt

/-- The last separator of a joined string is the one it was joined with (40_validate_split R122). -/
theorem lastSep_joined (h : List Byte) (dv : List Sym) : lastSep (joined h dv) = some h.length := by
  refine lastSep_eq_some_iff.2 ⟨by simp [joined], ?_⟩
  have hdrop : (joined h dv).drop (h.length + 1) = dv.map alphabetAt := by simp [joined]
  rw [hdrop, List.mem_map]
  exact fun ⟨v, _, hv⟩ => alphabetAt_ne_sep v hv

/-- A string joined from a lower-case HRP and a data part that fit is conforming, and cut into the two (43_codec R205). -/
theorem structural_joined {h : List Byte} {dv : List Sym} (hmin : 1 ≤ h.length) (hmax : h.length ≤ 83)
    (hdv : 6 ≤ dv.length) (hlen : h.length + 1 + dv.length ≤ 90) (hcase : ∀ c ∈ h, isUpper c = false)
    (hcodes : ∀ c ∈ h, codeOutOfRange c = false) :
    structural (joined h dv) = .ok ⟨h.length, h, dv.map alphabetAt⟩ := by
  have hsplit : splitAtSep (joined h dv) h.length = ⟨h.length, h, dv.map alphabetAt⟩ := by
    simp [splitAtSep, joined]
  have hupper : (joined h dv).any isUpper = false := by
    simpa [joined, show isUpper Config.sep = false by decide] using hcase
  have hrange : (joined h dv).any codeOutOfRange = false := by
    simpa [joined, show codeOutOfRange Config.sep = false by decide] using hcodes
  refine structural_eq_ok_iff.2 ⟨lexical_eq_ok_iff.2 ⟨?_, ?_, ?_, hrange, ?_⟩, h.length, lastSep_joined h dv, ?_, hsplit.symm⟩
  · rw [length_joined]; omega
  · rw [length_joined]; omega
  · simp [hupper]
  · simp [joined]
  · rw [hsplit, postSplit_eq_ok_iff]
    simpa using ⟨hmin, hmax, hdv⟩

/-- An HRP and the data part made for it decode to the HRP, the data and the constant (42_checksum R177). -/
theorem decodeData_dataPart (h : List Byte) (d : List Sym) (k : Variant) :
    decodeData h (dataPart h d k) = .ok ⟨h, d, k⟩ := by
  have htake : (dataPart h d k).take ((dataPart h d k).length - Config.csumLen) = d := by
    rw [length_dataPart, Nat.add_sub_cancel, dataPart, List.take_left]
  rw [decodeData, dataPart, checksumVerifiesItself, ← dataPart, htake]
  rfl

/-- Decode inverts encode wherever encode succeeds (43_codec R205). -/
theorem decodeString_encoded {h d : List Byte} (he : Encodable h d) (k : Variant) :
    decodeString (encoded h d k) = .ok ⟨h.map lower, d.map fun v => v.setWidth 5, k⟩ := by
  obtain ⟨hmin, hmax, htotal, hcodes, -⟩ := he
  have hlower : (h.map lower).map lower = h.map lower := by simp
  rw [decodeString_eq_bind, encoded, structural_joined (by simpa using hmin) (by simpa using hmax)
    (by simp) (by simp; omega) (by simp) (by simpa using hcodes)]
  show decodeSplit _ = _
  rw [decodeSplit_of_dataPart (dv := dataPart (h.map lower) (d.map fun v => v.setWidth 5) k) (by simp), hlower]
  exact decodeData_dataPart ..

/-- Settles O13: the preconditions are those under which encode answers its string, and decode inverts that. -/
theorem decodeInvertsEncode : Obligations.DecodeInvertsEncode := by
  intro h d k hmin hmax hcodes hvalues htotal
  have he : Encodable h d :=
    ⟨hmin, hmax, htotal, fun c hc => codeOutOfRange_eq_false_iff.2 (hcodes c hc), hvalues⟩
  exact ⟨encoded h d k, encodeString_eq_ok_iff.2 ⟨he, rfl⟩, decodeString_encoded he k⟩

end Sys2Proof.Machine
end

section
/-! PROOFS. ENCODE (O29, O30): its body's own checks are the encode function's first ones, so it reports what that function
answers; on its preconditions the entries it puts out are those of the string made. -/

namespace Sys2Proof.Machine

theorem mem_inputRange {s : State} {a b : Nat} {c : Byte} :
    c ∈ inputRange s a b ↔ ∃ i, (a ≤ i ∧ i < b) ∧ s.ibuf.read i = c := by
  have hmem (i : Nat) : i ∈ List.range' a (b - a) ↔ a ≤ i ∧ i < b := by rw [List.mem_range'_1]; omega
  simp only [inputRange, List.mem_map, hmem]

theorem getElem?_inputRange {s : State} {a b i : Nat} (h : a + i < b) :
    (inputRange s a b)[i]? = some (s.ibuf.read (a + i)) := by
  have hi : i < b - a := by omega
  simp [inputRange, hi]

/-- The HRP an ENCODE is given: the first HLEN_IN entries (43_codec R204). -/
def hrpInput (s : State) : List Byte := inputRange s 0 s.hlenIn.toNat

/-- The data values an ENCODE is given: the rest of the input (43_codec R204). -/
def dataInput (s : State) : List Byte := inputRange s s.hlenIn.toNat (inputLen s)

@[simp] theorem length_hrpInput (s : State) : (hrpInput s).length = s.hlenIn.toNat := length_inputRange s 0 _

@[simp] theorem length_dataInput (s : State) : (dataInput s).length = s.ilen.toNat - s.hlenIn.toNat :=
  length_inputRange s _ _

theorem hlenIn_add_length_dataInput {s : State} (hle : s.hlenIn.toNat ≤ s.ilen.toNat) :
    s.hlenIn.toNat + (dataInput s).length = s.ilen.toNat := by
  rw [length_dataInput, Nat.add_sub_cancel' hle]

/-- The lower-cased first entries of the input (43_codec R200, R202). -/
theorem map_lower_inputRange (s : State) (p : Nat) : (inputRange s 0 p).map lower = lowerHrp s p := by
  rw [inputRange, Nat.sub_zero, ← List.range_eq_range', List.map_map]
  rfl

/-- The encode function on an ENCODE's input, entry by entry (43_codec R202, R204). -/
theorem encodeString_input {s : State} (hle : s.hlenIn.toNat ≤ s.ilen.toNat) (k : Variant) :
    encodeString (hrpInput s) (dataInput s) k =
      if s.hlenIn.toNat < 1 then .error .hrpTooShort
      else if s.hlenIn.toNat > 83 then .error .hrpTooLong
      else if s.ilen.toNat + 7 > 90 then .error .hrpAndDpCombinedTooLong
      else if ∃ i, i < s.hlenIn.toNat ∧ (s.ibuf.read i < 0x21#8 ∨ s.ibuf.read i > 0x7E#8) then .error .charOutOfRange
      else if ∃ i, i < s.ilen.toNat ∧ (s.hlenIn.toNat ≤ i ∧ s.ibuf.read i > 31#8) then .error .charsetValueOutOfRange
      else .ok (encoded (hrpInput s) (dataInput s) k) := by
  have hcodes : (hrpInput s).any codeOutOfRange = true ↔
      ∃ i, i < s.hlenIn.toNat ∧ (s.ibuf.read i < 0x21#8 ∨ s.ibuf.read i > 0x7E#8) := by
    simp [hrpInput, mem_inputRange, codeOutOfRange, Config.codeMin, Config.codeMax]
  have hvalues : (∃ v ∈ dataInput s, v > 31#8) ↔
      ∃ i, i < s.ilen.toNat ∧ (s.hlenIn.toNat ≤ i ∧ s.ibuf.read i > 31#8) := by
    simp [dataInput, mem_inputRange, and_assoc, and_left_comm]
  simp only [encodeString_eq, length_hrpInput, hlenIn_add_length_dataInput hle, hcodes, hvalues]

/-- ENCODE's checks of ILEN and HLEN_IN, past the mismatch, are the encode function's own first three (43_codec R204). -/
theorem encodeBody_of_present {s : State} (ha : s.iabsent = false) (hle : s.hlenIn.toNat ≤ s.ilen.toNat) (k : Variant) :
    encodeBody k s = encodeString (hrpInput s) (dataInput s) k >>= fun out => finish (putOutput out 0 s) (some k) := by
  rw [encodeBody, if_neg (by simp [ha]), if_neg (Nat.not_lt.2 hle)]
  split_ifs with hmin hmax htotal
  · rw [encodeString_input hle, if_pos hmin]; rfl
  · rw [encodeString_input hle, if_neg hmin, if_pos hmax]; rfl
  · rw [encodeString_input hle, if_neg hmin, if_neg hmax, if_pos htotal]; rfl
  · show _ = encodeString (inputRange s 0 s.hlenIn.toNat) (inputRange s s.hlenIn.toNat (inputLen s)) k >>= _
    cases encodeString (inputRange s 0 s.hlenIn.toNat) (inputRange s s.hlenIn.toNat (inputLen s)) k <;> rfl

/-- The error of an ENCODE's input is the one its body raises (60_exceptions R245). -/
theorem encodeErrorOf_eq_reportedCode (s : State) (k : Variant) : encodeErrorOf s = reportedCode (encodeBody k s) := by
  rw [encodeErrorOf]
  split_ifs with ha hlt
  · rw [encodeBody, if_pos ha]; rfl
  · rw [encodeBody, if_neg ha, if_pos hlt]; rfl
  all_goals
    rw [encodeBody_of_present (by simpa using ha) (Nat.not_lt.1 hlt), encodeString_input (Nat.not_lt.1 hlt)]
    simp only [*, if_true, if_false]
    rfl

/-- Settles O29: the command completes with the error its body raises. -/
theorem encodeReportsTheFirstFailure : Obligations.EncodeReportsTheFirstFailure := by
  intro s k c h
  rw [encodeErrorOf_eq_reportedCode s k, reportedCode_eq_some_iff] at h
  obtain ⟨e, he, rfl⟩ := h
  exact exec_of_bodyOf_error (i := .encode k) he

/-- An ENCODE that finishes has its preconditions met, and puts out the string made (43_codec R204). -/
theorem encodeBody_eq_encoded {s : State} {k : Variant} {f : Finish} (h : encodeBody k s = .ok f) :
    s.hlenIn.toNat ≤ s.ilen.toNat ∧ Encodable (hrpInput s) (dataInput s) ∧
      f = ⟨putOutput (encoded (hrpInput s) (dataInput s) k) 0 s, some k, false⟩ := by
  obtain ⟨-, hle, -, out, hout, rfl⟩ := encodeBody_ok h
  obtain ⟨he, rfl⟩ := encodeString_eq_ok_iff.1 hout
  exact ⟨hle, he, rfl⟩

/-- The tag of a constant (30_encoding R103, 10_state R48). -/
theorem encCode_some (k : Variant) : encCode (some k) = tagCode k := by
  cases k <;> rfl

/-- A sequence that fits OBUF, put out, entry by entry (20_memory R88). -/
theorem read_putOutput_of_getElem? {s : State} (hm : s.obuf.wf = true) {out : List Byte}
    (hout : out.length ≤ Config.obufCap) (hlen : Nat) {i : Nat} {b : Byte} (h : out[i]? = some b) :
    (putOutput out hlen s).obuf.read i = b := by
  obtain ⟨hi, -⟩ := List.getElem?_eq_some_iff.1 h
  rw [read_putOutput_obuf hm hout, if_pos hi, List.getD_eq_getElem?_getD, h, Option.getD_some]

theorem read_putOutput_of_length_le {s : State} (hm : s.obuf.wf = true) {out : List Byte}
    (hout : out.length ≤ Config.obufCap) (hlen : Nat) {i : Nat} (h : out.length ≤ i) :
    (putOutput out hlen s).obuf.read i = s.obuf.read i :=
  (read_putOutput_obuf hm hout hlen i).trans (if_neg (Nat.not_lt.2 h))

theorem getElem?_joined_hrp {h : List Byte} {i : Nat} (hi : i < h.length) (dv : List Sym) : (joined h dv)[i]? = h[i]? :=
  List.getElem?_append_left hi

theorem getElem?_joined_sep (h : List Byte) (dv : List Sym) : (joined h dv)[h.length]? = some Config.sep := by
  simp [joined]

theorem getElem?_joined_data (h : List Byte) (dv : List Sym) (j : Nat) :
    (joined h dv)[h.length + 1 + j]? = dv[j]?.map alphabetAt := by
  rw [joined, List.getElem?_append_right (by omega), show h.length + 1 + j - h.length = j + 1 by omega,
    List.getElem?_cons_succ, List.getElem?_map]

section
variable {s : State} (k : Variant)

/-- The HRP of ENCODE's string, entry by entry (43_codec R202). -/
theorem getElem?_encoded_hrp {i : Nat} (hi : i < s.hlenIn.toNat) :
    (encoded (hrpInput s) (dataInput s) k)[i]? = some (lower (s.ibuf.read i)) := by
  rw [encoded, getElem?_joined_hrp (by simpa using hi), List.getElem?_map, hrpInput, getElem?_inputRange (by omega),
    Nat.zero_add, Option.map_some]

theorem getElem?_encoded_sep : (encoded (hrpInput s) (dataInput s) k)[s.hlenIn.toNat]? = some 0x31#8 := by
  have hsep := getElem?_joined_sep ((hrpInput s).map lower)
  rw [List.length_map, length_hrpInput] at hsep
  exact hsep _

/-- The data part of ENCODE's string, symbol by symbol (43_codec R202). -/
theorem getElem?_encoded_data (j : Nat) : (encoded (hrpInput s) (dataInput s) k)[s.hlenIn.toNat + 1 + j]? =
    (dataPart ((hrpInput s).map lower) ((dataInput s).map fun v => v.setWidth 5) k)[j]?.map alphabetAt := by
  have hdata := getElem?_joined_data ((hrpInput s).map lower)
  rw [List.length_map, length_hrpInput] at hdata
  exact hdata _ j

/-- The data characters of ENCODE's string (43_codec R202). -/
theorem getElem?_encoded_value {i : Nat} (hle : s.hlenIn.toNat ≤ i) (hi : i < s.ilen.toNat) :
    (encoded (hrpInput s) (dataInput s) k)[i + 1]? = some (alphabetAt ((s.ibuf.read i).setWidth 5)) := by
  obtain ⟨j, rfl⟩ := Nat.exists_eq_add_of_le hle
  have hj : j < s.ilen.toNat - s.hlenIn.toNat := by omega
  rw [Nat.add_right_comm, getElem?_encoded_data, dataPart, List.getElem?_append_left (by simpa using hj),
    List.getElem?_map, dataInput, getElem?_inputRange hi]
  rfl

/-- The checksum characters of ENCODE's string (43_codec R202). -/
theorem getElem?_encoded_checksum (hle : s.hlenIn.toNat ≤ s.ilen.toNat) {j : Nat} (hj : j < 6) :
    (encoded (hrpInput s) (dataInput s) k)[s.ilen.toNat + 1 + j]? =
      some (alphabetAt ((createChecksum ((hrpInput s).map lower) ((dataInput s).map fun v => v.setWidth 5)
        (checksumConst k)).getD j 0#5)) := by
  have hplace : s.ilen.toNat + 1 + j = s.hlenIn.toNat + 1 + ((dataInput s).length + j) := by
    rw [length_dataInput]; omega
  rw [hplace, getElem?_encoded_data, dataPart, List.getElem?_append_right (by simp), List.length_map,
    Nat.add_sub_cancel_left, List.getD_eq_getElem?_getD,
    List.getElem?_eq_getElem (by rwa [length_createChecksum])]
  rfl

end

/-- Settles O30: the entries put out are those of the string made, which fits OBUF. -/
theorem encodePutsOutTheString : Obligations.EncodePutsOutTheString := by
  intro s k hm h
  rw [encodeErrorOf_eq_reportedCode s k, reportedCode_eq_none_iff] at h
  obtain ⟨f, hf⟩ := h
  obtain ⟨hle, he, rfl⟩ := encodeBody_eq_encoded hf
  have hlen : (encoded (hrpInput s) (dataInput s) k).length = s.ilen.toNat + 7 := by
    rw [length_encoded, length_hrpInput, hlenIn_add_length_dataInput hle]
  have htotal : s.ilen.toNat + 7 ≤ 90 := by
    have htotal := he.total
    rwa [length_hrpInput, hlenIn_add_length_dataInput hle] at htotal
  have hcap : (encoded (hrpInput s) (dataInput s) k).length ≤ Config.obufCap :=
    hlen.trans_le (htotal.trans (by decide))
  have holen := (toNat_putOutput_olen hcap 0 s).trans hlen
  have hread {i : Nat} {b : Byte} (hb : (encoded (hrpInput s) (dataInput s) k)[i]? = some b) :=
    read_putOutput_of_getElem? hm hcap 0 hb
  refine ⟨_, exec_of_bodyOf_finish (i := .encode k) hf, by rw [encCode_some]; rfl, holen, holen.trans_le htotal,
    fun i hi => hread (getElem?_encoded_hrp k hi), hread (getElem?_encoded_sep k),
    fun i hle hi => hread (getElem?_encoded_value k hle hi), fun j hj => ?_, fun i hi => ?_⟩
  · rw [← map_lower_inputRange]
    have hsum := hread (getElem?_encoded_checksum k hle hj)
    rwa [dataInput, inputRange, List.map_map] at hsum
  · exact read_putOutput_of_length_le hm hcap 0 (hlen.trans_le hi)

end Sys2Proof.Machine
end

section
/-! PROOFS. DECODE (O27, O28): it completes with what decode answers on its input, which the entries of IBUF decide: where the
last separator is, whether the entries after it map, and the residue of the symbols they map to. -/

namespace Sys2Proof.Machine

/-- What DECODE puts out: the HRP, then the payload (43_codec R203). -/
def Decoded.output (x : Decoded) : List Byte := x.hrp ++ x.payload.map symByte

@[simp] theorem Decoded.length_output (x : Decoded) : x.output.length = x.hrp.length + x.payload.length := by
  simp [Decoded.output]

theorem Decoded.getElem?_output_hrp (x : Decoded) {i : Nat} (hi : i < x.hrp.length) : x.output[i]? = x.hrp[i]? :=
  List.getElem?_append_left hi

theorem Decoded.getElem?_output_payload (x : Decoded) (j : Nat) :
    x.output[x.hrp.length + j]? = x.payload[j]?.map symByte := by
  rw [Decoded.output, List.getElem?_append_right (Nat.le_add_right ..), Nat.add_sub_cancel_left, List.getElem?_map]

/-- DECODE's two checks of ILEN are the structural check's own first two (43_codec R203). -/
theorem decodeBody_of_present {s : State} (ha : s.iabsent = false) : decodeBody s =
    decodeString (inputSeq s) >>= fun x => finish (putOutput x.output x.hrp.length s) (some x.variant) := by
  rw [decodeBody, if_neg (by simp [ha])]
  split_ifs with hmin hmax
  · rw [decodeString_eq_bind, structural_of_short (by rwa [length_inputSeq])]; rfl
  · rw [decodeString_eq_bind, structural_of_long (by rwa [length_inputSeq])]; rfl
  · cases decodeString (inputSeq s) <;> rfl

/-- DECODE of a present input completes with the error decode answers (43_codec R203). -/
theorem exec_decode_of_error {s : State} {e : ErrKind} (ha : s.iabsent = false)
    (h : decodeString (inputSeq s) = .error e) : exec .decode s = .next (doneErr (outputCleared s) (errCode e)) := by
  have hbody : decodeBody s = .error e := by rw [decodeBody_of_present ha, h]; rfl
  exact exec_of_bodyOf_error (i := .decode) hbody

/-- What DECODE leaves when decode answers an HRP and a payload: they are put out, every other entry of OBUF is as before,
and nothing else but STATUS changes (43_codec R203). -/
structure DecodeDone (s : State) (x : Decoded) (t : State) : Prop where
  frame : t = doneOk { s with obuf := t.obuf, olen := t.olen, hlenOut := t.hlenOut } (tagCode x.variant)
  hlenOut : t.hlenOut = BitVec.ofNat 16 x.hrp.length
  olen : t.olen = BitVec.ofNat 16 (x.hrp.length + x.payload.length)
  hrp : ∀ i b, x.hrp[i]? = some b → t.obuf.read i = b
  payload : ∀ j v, x.payload[j]? = some v → t.obuf.read (x.hrp.length + j) = symByte v
  rest : ∀ i, x.hrp.length + x.payload.length ≤ i → t.obuf.read i = s.obuf.read i

/-- DECODE of a present input puts out what decode answers, which fits OBUF (43_codec R203). -/
theorem exec_decode_of_ok {s : State} {x : Decoded} (hm : s.obuf.wf = true) (ha : s.iabsent = false)
    (h : decodeString (inputSeq s) = .ok x) : ∃ t, exec .decode s = .next t ∧ DecodeDone s x t := by
  have hbody : decodeBody s = finish (putOutput x.output x.hrp.length s) (some x.variant) := by
    rw [decodeBody_of_present ha, h]; rfl
  obtain ⟨-, -, hmax, -⟩ := decodeBody_ok hbody
  have hcap : x.output.length ≤ Config.obufCap := by
    rw [x.length_output]
    exact (length_of_decodeString_ok h).trans ((length_inputSeq s).trans_le (hmax.trans (by decide)))
  refine ⟨_, exec_of_bodyOf_finish (i := .decode) hbody, by rw [encCode_some]; rfl, rfl, ?_, fun i b hb => ?_,
    fun j v hv => ?_, fun i hi => ?_⟩
  · rw [← x.length_output]; rfl
  · exact read_putOutput_of_getElem? hm hcap x.hrp.length ((x.getElem?_output_hrp (List.getElem?_eq_some_iff.1 hb).1).trans hb)
  · exact read_putOutput_of_getElem? hm hcap x.hrp.length (by rw [x.getElem?_output_payload, hv]; rfl)
  · exact read_putOutput_of_length_le hm hcap x.hrp.length (x.length_output.trans_le hi)

/-- DECODE of an input with a structural error completes with it (60_exceptions R245). -/
theorem exec_decode_of_structureErrorOf {s : State} {c : BitVec 5} (h : structureErrorOf s = some c) :
    exec .decode s = .next (doneErr (outputCleared s) c) := by
  obtain ⟨ha, rfl⟩ | ⟨ha, e, he, rfl⟩ := structureErrorOf_eq_some h
  · exact exec_of_bodyOf_error (i := .decode) (if_pos ha)
  · exact exec_decode_of_error ha (by rw [decodeString_eq_bind, he]; rfl)

theorem length_splitAtSep_dp (s : State) (p : Nat) :
    (splitAtSep (inputSeq s) p).dp.length = s.ilen.toNat - (p + 1) := by simp [splitAtSep]

section
variable {s : State} {p : Nat} (hs : structureErrorOf s = none) (hp : IsLastSep s p)
include hs hp

/-- An input without a structural error is present and cut at the place of its last separator (40_validate_split R124). -/
theorem structural_of_isLastSep :
    s.iabsent = false ∧ structural (inputSeq s) = .ok (splitAtSep (inputSeq s) p) := by
  obtain ⟨ha, q, hq, hx⟩ := structureErrorOf_eq_none hs
  have hqp : some q = some p := (lastSep_inputSeq.2 hq).symm.trans (lastSep_inputSeq.2 hp)
  cases hqp
  exact ⟨ha, hx⟩

theorem decodeString_of_isLastSep : decodeString (inputSeq s) = decodeSplit (splitAtSep (inputSeq s) p) := by
  rw [decodeString_eq_bind, (structural_of_isLastSep hs hp).2]
  rfl

/-- The lengths of an input without a structural error (40_validate_split R124). -/
theorem lengths_of_isLastSep : s.ilen.toNat ≤ 90 ∧ p + 7 ≤ s.ilen.toNat := by
  obtain ⟨-, hmax, -, -, -, -, -, -, -, hdp, -, -⟩ :=
    structuralPassMeansConforming _ _ (structural_of_isLastSep hs hp).2
  rw [length_inputSeq] at hmax
  rw [length_splitAtSep_dp] at hdp
  exact ⟨hmax, by omega⟩

/-- A code after the separator that is no symbol's character is no data part's (43_codec R200). -/
theorem decodeString_of_exists_invalid (h : ∃ i, p < i ∧ i < s.ilen.toNat ∧ ∀ v, alphabetAt v ≠ lower (s.ibuf.read i)) :
    decodeString (inputSeq s) = .error .charsetCharInvalid := by
  obtain ⟨-, -, -, hcodes, -⟩ := structuralPassMeansConforming _ _ (structural_of_isLastSep hs hp).2
  have hlt : ∀ c ∈ (splitAtSep (inputSeq s) p).dp, c < 0x80#8 := fun c hc => by
    have hmax := (hcodes c (List.mem_of_mem_drop hc)).2
    bv_omega
  obtain ⟨i, hpi, hi, hv⟩ := h
  have hget : (splitAtSep (inputSeq s) p).dp[i - (p + 1)]? = some (s.ibuf.read i) := by
    rw [splitAtSep, List.getElem?_drop, Nat.add_sub_cancel' hpi, getElem?_inputSeq, if_pos hi]
  rw [decodeString_of_isLastSep hs hp, decodeSplit, mapDecSeq_of_exists_invalid hlt ⟨_, List.mem_of_getElem? hget, hv⟩]
  rfl

/-- With the entries after the separator mapped, the HRP and the symbols decide (43_codec R200). -/
theorem decodeString_of_isDataPart {dv : List Sym} (hdv : IsDataPart s p dv) :
    decodeString (inputSeq s) = decodeData (lowerHrp s p) dv := by
  have ⟨hlen, hmap⟩ := hdv
  have hdp : dv.map alphabetAt = (splitAtSep (inputSeq s) p).dp.map lower := by
    refine List.ext_getElem ?_ fun j hj _ => ?_
    · rw [List.length_map, List.length_map, length_splitAtSep_dp]
      omega
    · rw [List.getElem_map, hmap j (by simpa using hj)]
      simp [splitAtSep, inputSeq, inputRange]
  have hhrp : (splitAtSep (inputSeq s) p).hrp.map lower = lowerHrp s p := by
    rw [splitAtSep, inputSeq_eq_map_range, ← List.map_take, List.take_range, Nat.min_eq_left hp.1.le, List.map_map]
    rfl
  rw [decodeString_of_isLastSep hs hp, decodeSplit_of_dataPart hdp, hhrp]

end

theorem residueTag_of_ne {r : Chk} (hm : r ≠ 0x2BC830A3#30) (h1 : r ≠ 0x00000001#30) :
    residueTag r = .error .badChecksum :=
  (if_neg hm).trans (if_neg h1)

/-- A data part whose residue is neither constant fails (42_checksum R176). -/
theorem decodeData_of_ne {h : List Byte} {dv : List Sym} (hm : polymod (expand h ++ dv) ≠ 0x2BC830A3#30)
    (h1 : polymod (expand h ++ dv) ≠ 0x00000001#30) : decodeData h dv = .error .badChecksum := by
  rw [decodeData, verifyChecksum, residueTag_of_ne hm h1]
  rfl

/-- A data part whose residue is a constant is stripped of its checksum (42_checksum R176, 43_codec R200). -/
theorem decodeData_of_eq {h : List Byte} {dv : List Sym} {k : Variant} (hk : polymod (expand h ++ dv) = checksumConst k) :
    decodeData h dv = .ok ⟨h, dv.take (dv.length - Config.csumLen), k⟩ := by
  rw [decodeData, verifyChecksum, hk, residueTag_checksumConst]
  rfl

/-- Settles O27: the structural errors, an entry that does not map, and a residue that is neither constant. -/
theorem decodeReportsTheFirstFailure : Obligations.DecodeReportsTheFirstFailure := by
  refine fun s => ⟨fun c h => exec_decode_of_structureErrorOf h, fun hs p hp => ?_⟩
  obtain ⟨ha, -⟩ := structural_of_isLastSep hs hp
  refine ⟨fun h => exec_decode_of_error ha (decodeString_of_exists_invalid hs hp h), fun dv hdv hm h1 => ?_⟩
  exact exec_decode_of_error ha ((decodeString_of_isDataPart hs hp hdv).trans (decodeData_of_ne hm h1))

@[simp] theorem length_lowerHrp (s : State) (p : Nat) : (lowerHrp s p).length = p := by simp [lowerHrp]

theorem getElem?_lowerHrp (s : State) {p i : Nat} (hi : i < p) : (lowerHrp s p)[i]? = some (lower (s.ibuf.read i)) := by
  simp [lowerHrp, hi]

/-- Settles O28: what is put out is the lower-cased HRP and the data part without its last six symbols. -/
theorem decodePutsOutHrpAndPayload : Obligations.DecodePutsOutHrpAndPayload := by
  intro s p dv k hm hs hp hdv hk
  obtain ⟨ha, -⟩ := structural_of_isLastSep hs hp
  obtain ⟨hmax, hn⟩ := lengths_of_isLastSep hs hp
  have hdvlen : p + 1 + dv.length = s.ilen.toNat := hdv.1
  have hx := (decodeString_of_isDataPart hs hp hdv).trans (decodeData_of_eq hk)
  obtain ⟨t, ht, hframe, hhlen, holen, hhrp, hpayload, hrest⟩ := exec_decode_of_ok hm ha hx
  have hsum : p + (dv.length - 6) = s.ilen.toNat - 7 := by omega
  have hpaylen : (dv.take (dv.length - Config.csumLen)).length = dv.length - 6 := List.length_take_of_le (Nat.sub_le ..)
  simp only [length_lowerHrp, hpaylen, hsum] at hhlen holen hpayload hrest
  have holen' : t.olen.toNat = s.ilen.toNat - 7 := by
    rw [holen, BitVec.toNat_ofNat]; omega
  refine ⟨t, ht, hframe, ?_, holen', by omega, fun i hi => hhrp i _ (getElem?_lowerHrp s hi), fun j hj => ?_, hrest⟩
  · rw [hhlen, BitVec.toNat_ofNat]; omega
  · refine hpayload j _ ?_
    rw [List.getElem?_take_of_lt (by simp only [Config.csumLen]; omega), List.getD_eq_getElem?_getD,
      List.getElem?_eq_getElem (by omega)]
    rfl

end Sys2Proof.Machine
end

section
/-! PROOFS. ENCODE's output as DECODE's input (O31). -/

namespace Sys2Proof.Machine

/-- A present buffer that reads as a sequence, with ILEN its length, presents it (20_memory R87). -/
theorem inputSeq_eq_of_read {u : State} {out : List Byte} (hlen : u.ilen.toNat = out.length)
    (h : ∀ i b, out[i]? = some b → u.ibuf.read i = b) : inputSeq u = out := by
  refine List.ext_getElem (by rw [length_inputSeq, ← hlen]) fun i hi hi' => ?_
  rw [← h i _ (List.getElem?_eq_getElem hi')]
  simp [inputSeq, inputRange]

/-- A data value is stored as its symbol is (30_encoding R102). -/
theorem symByte_setWidth_of_le {v : Byte} (h : v ≤ 31#8) : symByte (v.setWidth 5) = v := by
  unfold symByte
  bv_omega

/-- Settles O31: DECODE's input is the string ENCODE made, and decode inverts it. -/
theorem encodedOutputDecodesBack : Obligations.EncodedOutputDecodesBack := by
  intro s t u k hms hmu ht herr hau hlenu hreadu
  obtain ⟨e, -, rfl⟩ | ⟨f, hf, -, rfl⟩ := exec_next_cases ht
  · cases herr
  obtain ⟨hle, he, rfl⟩ := encodeBody_eq_encoded hf
  have hcap : (encoded (hrpInput s) (dataInput s) k).length ≤ Config.obufCap := by
    rw [length_encoded]
    exact he.total.trans (by decide)
  have hin : inputSeq u = encoded (hrpInput s) (dataInput s) k := by
    have holen := toNat_putOutput_olen hcap 0 s
    refine inputSeq_eq_of_read ((congrArg _ hlenu).trans holen) fun i b hb => ?_
    rw [hreadu i ((List.getElem?_eq_some_iff.1 hb).1.trans_eq holen.symm)]
    exact read_putOutput_of_getElem? hms hcap 0 hb
  have hx := decodeString_encoded he k
  rw [← hin] at hx
  obtain ⟨v, hv, hframe, hhlen, holen, hhrp, hpayload, -⟩ := exec_decode_of_ok hmu hau hx
  simp only [List.length_map, length_hrpInput, hlenIn_add_length_dataInput hle, BitVec.ofNat_toNat,
    BitVec.setWidth_eq] at hhlen holen hpayload
  refine ⟨v, hv, by rw [hframe]; rfl, by rw [hframe]; rfl, hhlen, holen, fun i hi => hhrp i _ ?_, fun i hhi hi => ?_⟩
  · rw [List.getElem?_map, hrpInput, getElem?_inputRange (by omega), Nat.zero_add, Option.map_some]
  · obtain ⟨j, rfl⟩ := Nat.exists_eq_add_of_le hhi
    have hget : (dataInput s)[j]? = some (s.ibuf.read (s.hlenIn.toNat + j)) := getElem?_inputRange hi
    rw [hpayload j _ (by rw [List.getElem?_map, hget]; rfl)]
    exact symByte_setWidth_of_le (he.values _ (List.mem_of_getElem? hget))

end Sys2Proof.Machine
end

section
/-! PROOFS. Every command's completion and frame (O32, O33): what completion writes, and that no body stages a register of
the host's. -/

namespace Sys2Proof.Machine

/-- Settles O32: an error reports a code of 1 to 16 without a tag, and a success code 0. -/
theorem everyCommandCompletes : Obligations.EveryCommandCompletes := by
  intro i s
  refine ⟨_, exec_eq_next i s, ?_⟩
  cases bodyOf i s with
  | error e => obtain ⟨hne, hle⟩ := errCode_range e; simp [hne, hle]
  | ok f => simp

/-- CTRL, ILEN, IFLAGS and HLEN_IN are the host's to write: no body stages them (10_state R41, R52 to R54). -/
theorem Staged.keeps_host {s : State} {i : Instr} {f : Finish} (hf : Staged s i f) :
    f.staged.irqEn = s.irqEn ∧ f.staged.ilen = s.ilen ∧ f.staged.iabsent = s.iabsent ∧ f.staged.hlenIn = s.hlenIn := by
  cases hf <;> exact ⟨rfl, rfl, rfl, rfl⟩

/-- No command writes CTRL, ILEN, IFLAGS or HLEN_IN (44_control R231). -/
theorem exec_keeps_hostRegisters {i : Instr} {s t : State} (ht : exec i s = .next t) :
    t.irqEn = s.irqEn ∧ t.ilen = s.ilen ∧ t.iabsent = s.iabsent ∧ t.hlenIn = s.hlenIn := by
  obtain ⟨e, -, rfl⟩ | ⟨f, -, hf, rfl⟩ := exec_next_cases ht
  · cases clearsOutput i <;> exact ⟨rfl, rfl, rfl, rfl⟩
  · exact hf.keeps_host

/-- Settles O33: the host's registers, IBUF with OVR, and the outside, each kept by every command. -/
theorem noCommandWritesTheHostsRegisters : Obligations.NoCommandWritesTheHostsRegisters := by
  intro i s t ht
  obtain ⟨hirq, hilen, habsent, hhlen⟩ := exec_keeps_hostRegisters ht
  obtain ⟨hibuf, hovr⟩ := exec_keeps_ibuf_ovr ht
  obtain ⟨hturns, hrdata⟩ := exec_keeps_outside ht
  exact ⟨hirq, hovr, hilen, habsent, hhlen, fun a => by rw [hibuf], hturns, hrdata⟩

end Sys2Proof.Machine
end

section
/-! PROOFS. The engine's turn on a pending word, legal or not (O40, O42; 44_control R232). -/

namespace Sys2Proof.Machine

/-- A word of no row is refused by the decoder (30_encoding R107, R108). -/
theorem decodeCmd_error_of_not_legalWord {w : Word} (h : legalWord w = false) : ∃ r, decodeCmd w = .error r := by
  cases hd : decodeCmd w with
  | ok i => rw [legalWord_of_decodeCmd_eq_ok hd] at h; cases h
  | error r => exact ⟨r, rfl⟩

/-- With none listed the turn is the engine's too (log 1). -/
theorem nextTurn_eq_engine {s : State} (h : s.turns = [] ∨ ∃ rest, s.turns = .engine :: rest) : nextTurn s = .engine := by
  obtain hts | ⟨rest, hts⟩ := h <;> rw [nextTurn, hts] <;> rfl

section
variable {s : State} {w : Word} (hn : nextTurn s = .engine) (hp : s.pend = some w)
include hn hp

theorem step_of_decodeCmd_ok {i : Instr} (hd : decodeCmd w = .ok i) : step s = exec i (popTurn s) := by
  simp [step, pendingWord, hn, hp, hd]

theorem step_of_not_legalWord (hl : legalWord w = false) : step s = .next (doneErr (popTurn s) 14#5) := by
  obtain ⟨r, hd⟩ := decodeCmd_error_of_not_legalWord hl
  simp only [step, pendingWord, hn, hp, hd]
  rfl

end

/-- Settles O40: in both cases the next turn is the engine's, and the word decodes. -/
theorem stepRunsThePendingCommand : Obligations.StepRunsThePendingCommand :=
  fun _ _ _ hp hts hd => step_of_decodeCmd_ok (nextTurn_eq_engine hts) hp hd

/-- A placed word is issued whole: no bit of it is cut (log 10). -/
theorem withFetchWord_eq (s : State) (w : Word) :
    s.withFetchWord 32 w.toNat = { issue w s with turns := .engine :: s.turns } := by
  rw [State.withFetchWord, Nat.mod_eq_of_lt w.isLt, BitVec.ofNat_toNat, BitVec.setWidth_eq]

/-- Settles O42: the placed word is pending, the engine's turn stands first, and taking it leaves the turns as they were. -/
theorem placedWordRunsNext : Obligations.PlacedWordRunsNext := by
  intro s w
  rw [withFetchWord_eq]
  exact ⟨fun i hd => step_of_decodeCmd_ok rfl rfl hd, fun hl => step_of_not_legalWord rfl rfl hl⟩

end Sys2Proof.Machine
end

section
/-! PROOFS. NOP (O15; 44_control R233). -/

namespace Sys2Proof.Machine

theorem opField_encode (i : Instr) : opField (encode i) = opOf i := by
  rw [encode_eq_wordOfFields, opField_wordOfFields]

theorem opOf_eq_zero {i : Instr} : opOf i = 0x00#8 ↔ i = .nop := by
  cases i <;> simp [opOf]

/-- A legal word is its command's own, so with OP = 0 it is NOP's (30_encoding R106, R107). -/
theorem eq_zero_of_legalWord {w : Word} (hl : legalWord w = true) (hop : opField w = 0x00#8) : w = 0x00000000#32 := by
  obtain ⟨hdec, -, -⟩ := legalWordsAreTheTableRows w
  obtain ⟨i, hi⟩ := hdec.2 hl
  obtain rfl := (decodesExactlyItsOwnWord w i).1 hi
  obtain rfl := opOf_eq_zero.1 ((opField_encode i).symm.trans hop)
  rfl

/-- Settles O15: NOP stages nothing, and its word is the one legal word with OP = 0. -/
theorem nopOnlyWritesStatus : Obligations.NopOnlyWritesStatus := by
  refine ⟨(decodesExactlyItsOwnWord _ .nop).2 rfl, fun w hop hw => ?_, fun s => exec_of_bodyOf_finish (i := .nop) rfl⟩
  exact Bool.eq_false_iff.2 fun hl => hw (eq_zero_of_legalWord hl hop)

end Sys2Proof.Machine
end

section
/-! PROOFS. A correct run (O56; 60_exceptions R246): a step takes the turn listed next and lists nothing but what WAIT's loop
needs, so the host accesses still to come are those that were. -/

namespace Sys2Proof.Machine

/-- No write to the window touches the turns, which are of the outside (log 1). -/
theorem writeReg_turns (v : Word) (s : State) (r : WindowReg) : (writeReg v s r).turns = s.turns := by
  obtain ⟨-, hw⟩ | ⟨-, -, hw⟩ | ⟨-, -, hw⟩ := writeReg_cases v s r <;> rw [hw]
  · unfold writeCtrl
    split <;> rfl
  · rfl
  · cases r <;> rfl

theorem turns_of_hostRead {s t : State} {addr size : Nat} (ht : hostRead addr size s = .next t) : t.turns = s.turns := by
  cases hr : accessReg addr size with
  | none => rw [hostRead_of_accessReg_none hr] at ht; cases ht
  | some r => rw [hostRead_of_accessReg hr] at ht; cases ht; rfl

theorem turns_of_hostWrite {s t : State} {addr size : Nat} {v : Word} (ht : hostWrite addr size v s = .next t) :
    t.turns = s.turns := by
  cases hr : accessReg addr size with
  | none => rw [hostWrite_of_accessReg_none hr] at ht; cases ht
  | some r => rw [hostWrite_of_accessReg hr] at ht; cases ht; exact writeReg_turns v s r

/-- A poll of WAIT lists the engine's turn and a further poll, or nothing (30_encoding R110; log 4). -/
theorem hostPoll_turns (s : State) :
    (hostPoll s).turns = s.turns ∨ (hostPoll s).turns = .engine :: .host .wait :: s.turns := by
  cases hb : busy s with
  | false => exact .inl (by rw [hostPoll_of_idle hb])
  | true => exact .inr (by rw [hostPoll_of_busy hb])

/-- Of the host's actions WAIT alone lists turns. -/
theorem turns_of_hostTurn {s t : State} {a : HostAction} (ht : hostTurn s a = .next t) :
    t.turns = s.turns ∨ t.turns = .engine :: .host .wait :: s.turns := by
  cases a with
  | read => exact .inl (turns_of_hostRead ht)
  | write | writeBack => exact .inl (turns_of_hostWrite ht)
  | wait => cases ht; exact hostPoll_turns s
  | resetPin => cases ht; exact .inl rfl

/-- The turns after a step: those after the one taken, and before them at most what WAIT's loop lists. -/
theorem turns_of_step {s t : State} (ht : step s = .next t) :
    t.turns = s.turns.tail ∨ t.turns = .engine :: .host .wait :: s.turns.tail := by
  obtain ⟨a, -, hs⟩ | ⟨-, -, hs⟩ | ⟨w, i, -, -, -, hs⟩ | ⟨w, r, -, -, -, hs⟩ := step_cases s <;> rw [hs] at ht
  · exact turns_of_hostTurn ht
  · cases ht; exact .inl rfl
  · exact .inl (exec_keeps_outside ht).1
  · cases ht; exact .inl rfl

theorem hostCorrect_iff {s : State} : hostCorrect s = true ↔ ∀ u ∈ s.turns, u.correct = true := List.all_eq_true

/-- The turns a step lists are correct ones, so a correct run stays one (60_exceptions R246). -/
theorem hostCorrect_of_step {s t : State} (h : hostCorrect s = true) (ht : step s = .next t) : hostCorrect t = true := by
  have htail : ∀ u ∈ s.turns.tail, u.correct = true := fun u hu => hostCorrect_iff.1 h u (List.mem_of_mem_tail hu)
  rw [hostCorrect_iff]
  obtain hts | hts := turns_of_step ht <;> rw [hts]
  · exact htail
  · exact List.forall_mem_cons.2 ⟨rfl, List.forall_mem_cons.2 ⟨rfl, htail⟩⟩

/-- Only an incorrect access stops the machine, and a correct run lists none (60_exceptions R246). -/
theorem exists_step_of_hostCorrect {s : State} (h : hostCorrect s = true) : ∃ t, step s = .next t := by
  by_contra! hstop
  obtain ⟨-, a, rest, hts, hc⟩ := step_fault_of_no_next hstop
  have hcorrect : a.correct = true := hostCorrect_iff.1 h (.host a) (by simp [hts])
  rw [hc] at hcorrect
  cases hcorrect

/-- Settles O56, by induction on the number of steps: each step has a next state, with the invariant (O55) and as correct a
list of turns. -/
theorem correctRunNeverFaults : Obligations.CorrectRunNeverFaults := by
  intro k
  induction k with
  | zero => exact fun s hinv hc => ⟨s, run_zero s, hinv, hc⟩
  | succ k ih =>
    intro s hinv hc
    obtain ⟨t, ht⟩ := exists_step_of_hostCorrect hc
    rw [run_succ_of_step ht]
    exact ih t (everyStepKeepsTheInvariant s t hinv ht) (hostCorrect_of_step hc ht)

end Sys2Proof.Machine
end

section
/-! PROOFS. What an error leaves (O35, O41; 60_exceptions R243, R244), and the machine with nothing to do (O43; R257). -/

namespace Sys2Proof.Machine

/-- Settles O35: only a body that raises reports an error, and its completion writes STATUS, with OLEN and HLEN_OUT for the
commands that clear them. -/
theorem errorLeavesOnlyStatus : Obligations.ErrorLeavesOnlyStatus := by
  refine ⟨fun i s t ht herr => ?_, fun s => rfl⟩
  rw [← clearsOutput_eq_true]
  obtain ⟨e, -, rfl⟩ | ⟨f, -, -, rfl⟩ := exec_next_cases ht
  · refine ⟨fun hc => ?_, fun hc => ?_⟩
    · rw [if_pos hc]; rfl
    · rw [if_neg hc]; rfl
  · cases herr

/-- Settles O41: in both cases the next turn is the engine's, and the word is no row's. -/
theorem illegalWordCompletesWithIllegalCommand : Obligations.IllegalWordCompletesWithIllegalCommand :=
  fun _ _ hp hts hl => step_of_not_legalWord (nextTurn_eq_engine hts) hp hl

/-- The engine's turn with PEND empty takes the turn and nothing else (60_exceptions R257). -/
theorem step_of_engine_idle {s : State} (hn : nextTurn s = .engine) (hp : s.pend = none) : step s = .next (popTurn s) := by
  simp [step, pendingWord, engineIdle, hn, hp]

theorem popTurn_of_turns_eq_nil {s : State} (hts : s.turns = []) : popTurn s = s := by
  cases s
  cases hts
  rfl

/-- Settles O43: with no turn listed the idle engine moves, and there is none to take. -/
theorem idleMachineHoldsItsState : Obligations.IdleMachineHoldsItsState := by
  intro s hp hts
  rw [step_of_engine_idle (nextTurn_eq_engine (.inl hts)) hp, popTurn_of_turns_eq_nil hts]

end Sys2Proof.Machine
end

section
/-! PROOFS. IRQ (O51; 60_exceptions R247, R248): what each event leaves in DONE and IRQ_EN. -/

namespace Sys2Proof.Machine

theorem irq_of_not_done {s : State} (h : s.done = false) : irq s = false := by rw [irq, h, Bool.false_and]

theorem irq_of_done {s : State} (h : s.done = true) : irq s = s.irqEn := by rw [irq, h, Bool.true_and]

/-- Completion sets DONE (44_control R231). -/
theorem done_of_exec {i : Instr} {s t : State} (ht : exec i s = .next t) : t.done = true := by
  obtain ⟨e, -, rfl⟩ | ⟨f, -, -, rfl⟩ := exec_next_cases ht <;> rfl

/-- A 1 written to STATUS bit 1 while idle clears DONE (10_state R43, 60_exceptions R248). -/
theorem done_of_memWrite_status {s t : State} {v : Word} (hb : busy s = false) (hv : v.getLsbD 1 = true)
    (ht : memWrite s (Config.base + 0x00C) 4 v = some t) : t.done = false := by
  rw [memWrite_base_add s v (by decide) (by decide)] at ht
  cases ht
  simp [regAt, writeReg, writeIdle, writeStatus, hb, hv]

/-- CTRL takes IRQ_EN at once, a command pending or not (10_state R41). -/
theorem memWrite_ctrl_irqEn (s : State) :
    memWrite s (Config.base + 0x004) 4 0x2#32 = some { s with irqEn := true } :=
  memWrite_base_add s 0x2#32 (by decide) (by decide)

/-- Settles O51, event by event. -/
theorem interruptFollowsDone : Obligations.InterruptFollowsDone := by
  refine ⟨fun s => ⟨fun h => ?_, fun h => ?_⟩, fun i s t ht => ?_, fun s w => irq_of_not_done rfl,
    fun s t v hb hv ht => irq_of_not_done (done_of_memWrite_status hb hv ht), fun s => irq_of_not_done rfl,
    fun s hd => ⟨_, memWrite_ctrl_irqEn s, irq_of_done hd⟩⟩
  · rw [irq, h, Bool.and_false]
  · rw [irq, h, Bool.and_true]
  · obtain ⟨hirq, -⟩ := exec_keeps_hostRegisters ht
    rw [irq_of_done (done_of_exec ht), hirq]

end Sys2Proof.Machine
end

section
/-! PROOFS. Between issue and completion (O49; 70_reset_and_hazards R286): an issue shows in STATUS alone, at BUSY and DONE. -/

namespace Sys2Proof.Machine

/-- An offset that is no reserved one is the offset of what stands there (10_state R39, 20_memory R72). -/
theorem regOffset_regAt {off : Nat} (ha : off % 4 = 0) (hr : regAt off ≠ .reserved) : regOffset (regAt off) = off := by
  obtain ⟨k, rfl⟩ := Nat.dvd_of_mod_eq_zero ha
  rcases Nat.lt_or_ge k 12 with hlow | hhigh
  · interval_cases k <;> rfl
  · rw [regAt_past_registers (by omega)] at hr ⊢
    split_ifs at hr ⊢ with hibuf hobuf
    · simp only [regOffset]; omega
    · simp only [regOffset]; omega
    · exact absurd rfl hr

/-- A register or a buffer entry stands at its own aligned offset and at no other (10_state R39). -/
theorem regAt_eq_iff {off : Nat} (ha : off % 4 = 0) {r : WindowReg} (hr : r ≠ .reserved)
    (h : ∀ i, r = .ibuf i ∨ r = .obuf i → i < 128) : regAt off = r ↔ off = regOffset r := by
  constructor
  · rintro rfl
    exact (regOffset_regAt ha hr).symm
  · rintro rfl
    exact regAt_regOffset h

/-- Every word but STATUS reads as before the issue (44_control R230). -/
theorem readReg_issue (w : Word) (s : State) {r : WindowReg} (hr : r ≠ .status) : readReg (issue w s) r = readReg s r := by
  cases r with
  | status => exact absurd rfl hr
  | _ => rfl

/-- On a word whose bit 0 is clear, clearing bit 1 and setting bit 0 keeps the bits above. -/
theorem append_and_or_eq_append {n : Nat} (x : BitVec n) (d : BitVec 1) :
    ((x ++ d ++ 0#1) &&& (BitVec.allOnes n ++ 0#1 ++ 1#1)) ||| (0#n ++ 0#1 ++ 1#1) = x ++ 0#1 ++ 1#1 := by
  simp only [BitVec.and_append, BitVec.or_append, BitVec.and_allOnes, BitVec.and_zero, BitVec.zero_and, BitVec.or_zero,
    BitVec.zero_or]

/-- STATUS after the issue on an idle machine: BUSY set, DONE cleared (44_control R230). -/
theorem statusWord_issue (w : Word) {s : State} (hb : busy s = false) :
    statusWord (issue w s) = (statusWord s &&& 0xFFFFFFFD#32) ||| 0x00000001#32 := by
  rw [statusWord, statusWord, hb]
  exact (append_and_or_eq_append (n := 30) _ _).symm

/-- Settles O49: only STATUS's own offset reads STATUS. -/
theorem pendingCommandShowsOldValues : Obligations.PendingCommandShowsOldValues := by
  refine fun s w hb => ⟨fun off h ha hoff => ?_, statusWord_issue w hb⟩
  have hr : regAt off ≠ .status := mt (regAt_eq_iff ha (by simp) (by simp)).1 hoff
  rw [memRead_base_add _ h ha, memRead_base_add _ h ha, readReg_issue w s hr]

end Sys2Proof.Machine
end

section
/-! PROOFS. Reset (O52, O53, O54; 70_reset_and_hazards R280 to R282). -/

namespace Sys2Proof.Machine

/-- A CTRL write with SRST set resets the block, BUSY or not (10_state R41). -/
theorem writeReg_ctrl_of_srst (s : State) {v : Word} (hv : v.getLsbD 0 = true) : writeReg v s .ctrl = resetBlock s := by
  rw [writeReg, if_pos rfl, writeCtrl, if_pos hv]

/-- Settles O52: either turn is `resetBlock`. -/
theorem bothResetsAreTheSame : Obligations.BothResetsAreTheSame := by
  intro s rest v hv
  constructor
  · rw [step_of_hostTurn_next rfl]
    rfl
  · have hctrl : accessReg (Config.base + 0x004) 4 = some .ctrl := accessReg_base_add (by decide) (by decide)
    rw [step_of_hostTurn_next rfl]
    exact (hostWrite_of_accessReg hctrl).trans (congrArg Host.Outcome.next (writeReg_ctrl_of_srst _ hv))

/-- The reset values (70_reset_and_hazards R281): ID and CHK as given, every other word 0. -/
theorem readReg_reset (r : WindowReg) : readReg State.reset r =
    if r = .id then 0x42333201#32 else if r = .chk then 0x00000001#32 else 0x00000000#32 := by
  cases r <;> rfl

/-- Settles O53: ID and CHK stand at 0x000 and 0x010 and nowhere else. -/
theorem resetValuesOfTheWindow : Obligations.ResetValuesOfTheWindow := by
  refine ⟨fun off h ha => ?_, rfl, rfl⟩
  have hid : regAt off = .id ↔ off = 0x000 := regAt_eq_iff ha (by simp) (by simp)
  have hchk : regAt off = .chk ↔ off = 0x010 := regAt_eq_iff ha (by simp) (by simp)
  rw [memRead_base_add _ h ha, readReg_reset]
  simp only [hid, hchk]

/-- Settles O54: the base case of the invariant every step keeps (O55). -/
theorem invariantHoldsAtReset : Obligations.InvariantHoldsAtReset := inv_reset

end Sys2Proof.Machine
end
